-- ==== Sys2Proof/Word.lean ====
section
/-! DEFINITION. Word.lean: the widths of the block (spec/00_scope.md R8): bytes on the link, 16-bit words everywhere
else, and the decimal pair of spec/40_codec_dispatch.md R124. -/

namespace Sys2Proof

/-- A byte of the link (R8). -/
abbrev Byte := BitVec 8

/-- A word: a sample, a register, a 16-bit field (R8). -/
abbrev Word := BitVec 16

/-- The decimal pair `(m, e)` of R124, standing for the exact rational `m · 10^e`. -/
structure Dec where
  /-- The mantissa, −20000 to 45535 when it comes from the link. -/
  m : Int
  /-- The exponent, −128 to 127 when it comes from the link. -/
  e : Int
  deriving DecidableEq, Repr, Inhabited

end Sys2Proof
end

