-- ==== Sys2Proof/Syntax.lean ====
section
/-! DEFINITION. Syntax.lean: the command set (spec/30_encoding.md R96), one constructor of `Instr` per row of
spec/opcode_table.json, in the table's order. An instruction is a recognised request frame: its operands in the order
of the request format (R93) and the checksum byte that ends it (R91), whatever that byte's value. -/

namespace Sys2Proof

/-- The request formats of R93. -/
inductive Format where
  | q0 | qB | qBB | qW | qBW | qD | qS | qT | qV
  deriving DecidableEq, Repr

/-- The 23 commands of R96, in the table's order. -/
inductive Cmd where
  | fwstr | magicq | caps | pins | anard | anawr | setper | setsto
  | asyncrd | trigrd | steprsp | loadp | loads | wresp | dwresp | swresp
  | wplay | dwplay | diomode | diowr | diord | setnavg | softrst
  deriving DecidableEq, Repr

/-- Every command, in the table's order. -/
def Cmd.all : List Cmd :=
  [.fwstr, .magicq, .caps, .pins, .anard, .anawr, .setper, .setsto,
   .asyncrd, .trigrd, .steprsp, .loadp, .loads, .wresp, .dwresp, .swresp,
   .wplay, .dwplay, .diomode, .diowr, .diord, .setnavg, .softrst]

/-- A recognised request frame (R91, R93, R96). The last argument of every constructor is the checksum byte. -/
inductive Instr where
  /-- FWSTR, firmware-string query (spec/46_query_io_commands.md R290). -/
  | fwstr (chk : Byte)
  /-- MAGICQ, magic-ID query (R291). -/
  | magicq (chk : Byte)
  /-- CAPS, capability query (R292). -/
  | caps (chk : Byte)
  /-- PINS, pin-list query (R293). -/
  | pins (chk : Byte)
  /-- ANARD, analog read (R294). -/
  | anard (channel : Byte) (chk : Byte)
  /-- ANAWR, analog write (R295). -/
  | anawr (channel : Byte) (value : Word) (chk : Byte)
  /-- SETPER, set sample period (spec/41_config_commands.md R150). -/
  | setper (period : Dec) (chk : Byte)
  /-- SETSTO, configure storage (R151). -/
  | setsto (nch ndig : Byte) (ns : Word) (chk : Byte)
  /-- ASYNCRD, async read (spec/44_capture_kernels.md R220). -/
  | asyncrd (chk : Byte)
  /-- TRIGRD, triggered read (R225). -/
  | trigrd (level : Word) (edge seconds : Byte) (chk : Byte)
  /-- STEPRSP, step response (R235). -/
  | steprsp (value : Word) (chk : Byte)
  /-- LOADP, load primary wavetable (spec/42_allocator_commands.md R171); the size field is the data's length. -/
  | loadp (data : List Word) (chk : Byte)
  /-- LOADS, load secondary wavetable (R173); the size field is the data's length. -/
  | loads (data : List Word) (chk : Byte)
  /-- WRESP, wave response with one output (spec/45_wave_kernels.md R264). -/
  | wresp (count : Word) (chk : Byte)
  /-- DWRESP, wave response with two outputs (R265). -/
  | dwresp (count : Word) (chk : Byte)
  /-- SWRESP, single-channel wave response (R266). -/
  | swresp (channel : Byte) (count : Word) (chk : Byte)
  /-- WPLAY, wave play with one output (R268). -/
  | wplay (count : Word) (chk : Byte)
  /-- DWPLAY, wave play with two outputs (R269). -/
  | dwplay (count : Word) (chk : Byte)
  /-- DIOMODE, digital-mode set (R296). -/
  | diomode (line mode : Byte) (chk : Byte)
  /-- DIOWR, digital write (R297). -/
  | diowr (line value : Byte) (chk : Byte)
  /-- DIORD, digital read (R298). -/
  | diord (line : Byte) (chk : Byte)
  /-- SETNAVG, averaging-count set (R152). -/
  | setnavg (count : Word) (chk : Byte)
  /-- SOFTRST, soft reset (R153). -/
  | softrst (chk : Byte)
  deriving DecidableEq, Repr

/-- The command of an instruction. -/
def Instr.cmd : Instr → Cmd
  | .fwstr _ => .fwstr
  | .magicq _ => .magicq
  | .caps _ => .caps
  | .pins _ => .pins
  | .anard _ _ => .anard
  | .anawr _ _ _ => .anawr
  | .setper _ _ => .setper
  | .setsto _ _ _ _ => .setsto
  | .asyncrd _ => .asyncrd
  | .trigrd _ _ _ _ => .trigrd
  | .steprsp _ _ => .steprsp
  | .loadp _ _ => .loadp
  | .loads _ _ => .loads
  | .wresp _ _ => .wresp
  | .dwresp _ _ => .dwresp
  | .swresp _ _ _ => .swresp
  | .wplay _ _ => .wplay
  | .dwplay _ _ => .dwplay
  | .diomode _ _ _ => .diomode
  | .diowr _ _ _ => .diowr
  | .diord _ _ => .diord
  | .setnavg _ _ => .setnavg
  | .softrst _ => .softrst

/-- The checksum byte of a request frame, as received (R91). -/
def Instr.chk : Instr → Byte
  | .fwstr c => c
  | .magicq c => c
  | .caps c => c
  | .pins c => c
  | .anard _ c => c
  | .anawr _ _ c => c
  | .setper _ c => c
  | .setsto _ _ _ c => c
  | .asyncrd c => c
  | .trigrd _ _ _ c => c
  | .steprsp _ c => c
  | .loadp _ c => c
  | .loads _ c => c
  | .wresp _ c => c
  | .dwresp _ c => c
  | .swresp _ _ c => c
  | .wplay _ c => c
  | .dwplay _ c => c
  | .diomode _ _ c => c
  | .diowr _ _ c => c
  | .diord _ c => c
  | .setnavg _ c => c
  | .softrst c => c

end Sys2Proof
end

