-- ==== Sys2Proof/Config.lean ====
section
/-! DEFINITION. Config.lean: what an implementation fixes (the parameters of spec/00_scope.md R6 and the platform
constants of R11), the events the agents' order is made of (spec/20_memory.md R71), and the free values: constants
with no body for every value the spec leaves open (spec/93_implementation_defined.md part 1). A `Config` is plain
data that State carries, so that a statement over all states holds for every profile; notes/assumptions/1.md. -/

namespace Sys2Proof

/-- The 23 parameters `CMD_*` of R6 and spec/30_encoding.md R96. -/
structure Codes where
  fwstr : Byte
  magicq : Byte
  caps : Byte
  pins : Byte
  anard : Byte
  anawr : Byte
  setper : Byte
  setsto : Byte
  asyncrd : Byte
  trigrd : Byte
  steprsp : Byte
  loadp : Byte
  loads : Byte
  wresp : Byte
  dwresp : Byte
  swresp : Byte
  wplay : Byte
  dwplay : Byte
  diomode : Byte
  diowr : Byte
  diord : Byte
  setnavg : Byte
  softrst : Byte
  deriving DecidableEq, Repr

/-- The code of a command: the parameter `CMD_<mnemonic>`. -/
def Codes.of (k : Codes) : Cmd → Byte
  | .fwstr => k.fwstr
  | .magicq => k.magicq
  | .caps => k.caps
  | .pins => k.pins
  | .anard => k.anard
  | .anawr => k.anawr
  | .setper => k.setper
  | .setsto => k.setsto
  | .asyncrd => k.asyncrd
  | .trigrd => k.trigrd
  | .steprsp => k.steprsp
  | .loadp => k.loadp
  | .loads => k.loads
  | .wresp => k.wresp
  | .dwresp => k.dwresp
  | .swresp => k.swresp
  | .wplay => k.wplay
  | .dwplay => k.dwplay
  | .diomode => k.diomode
  | .diowr => k.diowr
  | .diord => k.diord
  | .setnavg => k.setnavg
  | .softrst => k.softrst

/-- The constraint of R6 on the command codes: pairwise distinct. -/
def Codes.Distinct (k : Codes) : Prop := (Cmd.all.map k.of).Nodup

/-- What a trigger timeout of zero ticks does: the parameter `TIMEOUT_ZERO` of R6 (92_eei_decisions.md D25). -/
inductive TimeoutZero where
  | disabled | immediate
  deriving DecidableEq, Repr

/-- Which arithmetic compares periods and computes the timeout quotient: the exact one of
spec/40_codec_dispatch.md R135, or the platform's unknown one (93 U20: replaceable functions). -/
inductive Arith where
  | exact | platform
  deriving DecidableEq, Repr

/-- The platform constants of spec/00_scope.md R11 and spec/46_query_io_commands.md R288, R292. -/
structure Platform where
  /-- `Platform.fwString` -/
  fwString : List Byte
  /-- `Platform.pinList` -/
  pinList : List Byte
  /-- `Platform.cap.vdd`, supply voltage -/
  vdd : Dec
  /-- `Platform.cap.fmax`, maximum frequency -/
  fmax : Dec
  /-- `Platform.cap.vref`, reference voltage -/
  vref : Dec
  /-- `Platform.cap.dacBits` -/
  dacBits : Byte
  /-- `Platform.cap.adcBits` -/
  adcBits : Byte
  /-- `Platform.ndio`, the number of digital lines -/
  ndio : Byte
  deriving DecidableEq, Repr

/-- The parameters of R6. The widths of `BSIZE`, `NADC`, `NDAC` are those CAPS reports them with (R292). -/
structure Config where
  codes : Codes
  /-- `BSIZE`, capacity of the sample buffer in words -/
  bsize : Word
  /-- `PMIN`, least legal sample period -/
  pmin : Dec
  /-- `PMAX`, greatest legal sample period -/
  pmax : Dec
  /-- `NADC`, analog input channels -/
  nadc : Byte
  /-- `NDAC`, analog output channels -/
  ndac : Byte
  ack : Byte
  nack : Byte
  ecrc : Byte
  stOk : Byte
  stOverrun : Byte
  stTimeout : Byte
  stHalted : Byte
  edgeRising : Byte
  edgeFalling : Byte
  magic0 : Byte
  magic1 : Byte
  magic2 : Byte
  magic3 : Byte
  /-- `NCH0`, reset default of `NCH` -/
  nch0 : BitVec 3
  /-- `NS0`, reset default of `NS` -/
  ns0 : Word
  /-- `PER0`, reset default of `PER` -/
  per0 : Dec
  /-- `NAVG0`, reset default of `NAVG` -/
  navg0 : Word
  timeoutZero : TimeoutZero
  arith : Arith
  platform : Platform
  deriving DecidableEq, Repr

/-- The reference command codes of R96: ASCII letters. PRESUMED (the spec marks them as general knowledge, D2); unsafe
for a claim about the real firmware's codes. notes/assumptions/2.md. -/
def Codes.reference : Codes :=
  { fwstr := 0x46, magicq := 0x4D, caps := 0x49, pins := 0x4C, anard := 0x41, anawr := 0x44,
    setper := 0x52, setsto := 0x53, asyncrd := 0x59, trigrd := 0x47, steprsp := 0x50,
    loadp := 0x57, loads := 0x77, wresp := 0x56, dwresp := 0x76, swresp := 0x58,
    wplay := 0x51, dwplay := 0x71, diomode := 0x48, diowr := 0x4A, diord := 0x4B,
    setnavg := 0x4E, softrst := 0x45 }

/-- The platform constants that spec/95_test_vectors.md section 2.9 assumes. DESIGN CHOICE: the spec gives the
platform none; unsafe for a claim that names them. notes/assumptions/2.md. -/
def Platform.reference : Platform :=
  { fwString := [0x53, 0x4C, 0x61, 0x62], pinList := [0x58, 0x7C, 0x59],
    vdd := ⟨33, -1⟩, fmax := ⟨4, 4⟩, vref := ⟨33, -1⟩, dacBits := 12, adcBits := 12, ndio := 8 }

/-- The reference profile of R6. notes/assumptions/1.md. -/
def Config.reference : Config :=
  { codes := Codes.reference, bsize := 20000, pmin := ⟨1, -5⟩, pmax := ⟨1, 2⟩, nadc := 4, ndac := 2,
    ack := 181, nack := 226, ecrc := 37, stOk := 0, stOverrun := 1, stTimeout := 2, stHalted := 3,
    edgeRising := 0, edgeFalling := 1, magic0 := 56, magic1 := 41, magic2 := 18, magic3 := 1,
    nch0 := 1, ns0 := 1000, per0 := ⟨1, -3⟩, navg0 := 10, timeoutZero := .disabled, arith := .exact,
    platform := Platform.reference }

/-- The small profile of R6: `BSIZE` = 16, `NS0` = 8. -/
def Config.small : Config := { Config.reference with bsize := 16, ns0 := 8 }

/-- One occurrence of spec/20_memory.md R71: whose step comes next. -/
inductive Event where
  /-- the main agent: a command step or a poll step (M1, M2) -/
  | main
  /-- the timer ticks (T) -/
  | tick
  /-- an edge on the halt line (H) -/
  | halt
  /-- the host appends a byte to `RX` (X) -/
  | rx (b : Byte)
  /-- the hard reset event (Z) -/
  | reset
  deriving DecidableEq, Repr, Inhabited

/-- Free value: the event of turn `n` where none is scripted (93 U22: every interleaving is a behaviour).
notes/assumptions/3.md. -/
opaque Config.freeEvent : Nat → Event

/-- Free value: the answer number `call` of the environment, to `AdcRead(c)` (spec/60_exceptions.md R330, 93 U8).
notes/assumptions/5.md. -/
opaque Config.freeAdc : (call c : Nat) → Word

/-- Free value: the answer to `Platform.analogRead(c, n)` (spec/46_query_io_commands.md R288, R294). -/
opaque Config.freeAnalog : (call : Nat) → (c : Byte) → (n : Word) → Word

/-- Free value: the answer to `Platform.digitalRead(l)` (R288, R298). -/
opaque Config.freeDigital : (call : Nat) → (l : Byte) → Byte

/-- Free value: whether `Platform.digitalMode(l, m)` accepts (R288, R296, 93 U9). -/
opaque Config.freeMode : (call : Nat) → (l m : Byte) → Bool

/-- Free value: the answer to `Platform.resetFlag()` (R288, R292). -/
opaque Config.freeFlag : (call : Nat) → Byte

/-- Free value: the byte of `buff` at a byte address that nothing has written since hard reset number `resets`
(spec/10_state.md R56, 93 U5: any value, but the same at every read). notes/assumptions/6.md. -/
opaque Config.unwrittenByte : (resets addr : Nat) → Byte

/-- Free value: the platform's own comparison of two decimals (93 U20). notes/assumptions/10.md. -/
opaque Config.platformLess : (a b : Dec) → Bool

/-- Free value: the platform's own timeout quotient, in the 32 bits of `TOCNT` (93 U20, R28). -/
opaque Config.platformTicks : (seconds : Byte) → (period : Dec) → BitVec 32

end Sys2Proof
end

