-- ==== Sys2Proof/WellFormed.lean ====
section
/-! DEFINITION. WellFormed.lean: which instructions a request frame can carry. Every field whose width the type
fixes is well formed at every value (spec/30_encoding.md R100); what is left is the range of a decimal
(spec/40_codec_dispatch.md R124) and the length of a load's data (R101). -/

namespace Sys2Proof

/-- The ranges the biased fields of a decimal can express (R124). -/
def Dec.encodable (d : Dec) : Bool :=
  decide (-20000 ≤ d.m) && decide (d.m ≤ 45535) && decide (-128 ≤ d.e) && decide (d.e ≤ 127)

/-- An instruction that some frame encodes. -/
def Instr.wf : Instr → Bool
  | .setper p _ => p.encodable
  | .loadp data _ => decide (data.length ≤ 65535)
  | .loads data _ => decide (data.length ≤ 65535)
  | .fwstr _ | .magicq _ | .caps _ | .pins _ | .anard _ _ | .anawr _ _ _ | .setsto _ _ _ _
  | .asyncrd _ | .trigrd _ _ _ _ | .steprsp _ _ | .wresp _ _ | .dwresp _ _ | .swresp _ _ _
  | .wplay _ _ | .dwplay _ _ | .diomode _ _ _ | .diowr _ _ _ | .diord _ _ | .setnavg _ _
  | .softrst _ => true

end Sys2Proof
end

