-- ==== Sys2Proof/Decode.lean ====
section
/-! DEFINITION. Decode.lean: the frame codec's byte side (spec/30_encoding.md R90 to R103, spec/40_codec_dispatch.md
R122 to R125): byte order, the length of a frame, decoding a frame to an instruction, and the encoder written from the
same table of formats. -/

namespace Sys2Proof

/-! ## Bytes, words, decimals (R95) -/

/-- The word `hi ++ lo` of two link bytes, low byte first on the link (R95, R122). -/
def u16 (lo hi : Byte) : Word := hi ++ lo

/-- Bits 7:0 of a word, the byte sent first (R63, R123). -/
def loByte (w : Word) : Byte := w.extractLsb' 0 8

/-- Bits 15:8 of a word, the byte sent second (R63, R123). -/
def hiByte (w : Word) : Byte := w.extractLsb' 8 8

/-- `GetDec`: the exponent byte carries +128, the mantissa word +20000 (R124). -/
def decOf (x : Byte) (w : Word) : Dec := ⟨(w.toNat : Int) - 20000, (x.toNat : Int) - 128⟩

/-- The biased exponent byte of `PutDec` (R125). -/
def expByte (d : Dec) : Byte := BitVec.ofInt 8 (d.e + 128)

/-- The biased mantissa word of `PutDec` (R125). -/
def manWord (d : Dec) : Word := BitVec.ofInt 16 (d.m + 20000)

/-- The bytes of a word in link order (R123). -/
def wordBytes (w : Word) : List Byte := [loByte w, hiByte w]

/-- The bytes of a decimal in link order, exponent first (R124, R125). -/
def decBytes (d : Dec) : List Byte := expByte d :: wordBytes (manWord d)

/-- The words of a run of bytes, in link order (R93, format QV). -/
def wordsOf : List Byte → List Word
  | lo :: hi :: r => u16 lo hi :: wordsOf r
  | _ => []

/-- The XOR of a list of bytes (R91, R134). -/
def xorBytes : List Byte → Byte
  | [] => 0
  | b :: r => b ^^^ xorBytes r

/-! ## The command table (R93, R96) -/

/-- The command whose code is `b`, if any (R96, R98). -/
def Codes.find (k : Codes) (b : Byte) : Option Cmd := Cmd.all.find? (fun c => k.of c == b)

/-- The request format of each command (R96). -/
def Cmd.format : Cmd → Format
  | .fwstr | .magicq | .caps | .pins | .asyncrd | .softrst => .q0
  | .anard | .diord => .qB
  | .diomode | .diowr => .qBB
  | .steprsp | .wresp | .dwresp | .wplay | .dwplay | .setnavg => .qW
  | .anawr | .swresp => .qBW
  | .setper => .qD
  | .setsto => .qS
  | .trigrd => .qT
  | .loadp | .loads => .qV

/-- The byte count of each format (R93); of `QV`, the count with no data. -/
def Format.length : Format → Nat
  | .q0 => 2
  | .qB => 3
  | .qBB => 4
  | .qW => 4
  | .qBW => 5
  | .qD => 5
  | .qS => 6
  | .qT => 6
  | .qV => 4

/-! ## Delimiting and decoding frames -/

/-- `FrameLen(rx)` of R103; `none` is the rule's "wait". -/
def frameLen (k : Codes) : List Byte → Option Nat
  | [] => none
  | c :: r =>
    match k.find c with
    | none => some 1
    | some cmd =>
      match cmd.format with
      | .qV =>
        match r with
        | lo :: hi :: _ => some (4 + 2 * (u16 lo hi).toNat)
        | _ => none
      | f => some f.length

/-- The operands of format `Q0`. -/
def readQ0 : List Byte → Option Byte
  | [chk] => some chk
  | _ => none

/-- The operands of format `QB`. -/
def readQB : List Byte → Option (Byte × Byte)
  | [b, chk] => some (b, chk)
  | _ => none

/-- The operands of format `QBB`. -/
def readQBB : List Byte → Option (Byte × Byte × Byte)
  | [b1, b2, chk] => some (b1, b2, chk)
  | _ => none

/-- The operands of format `QW`. -/
def readQW : List Byte → Option (Word × Byte)
  | [lo, hi, chk] => some (u16 lo hi, chk)
  | _ => none

/-- The operands of format `QBW`. -/
def readQBW : List Byte → Option (Byte × Word × Byte)
  | [b, lo, hi, chk] => some (b, u16 lo hi, chk)
  | _ => none

/-- The operands of format `QD`. -/
def readQD : List Byte → Option (Dec × Byte)
  | [x, lo, hi, chk] => some (decOf x (u16 lo hi), chk)
  | _ => none

/-- The operands of format `QS`. -/
def readQS : List Byte → Option (Byte × Byte × Word × Byte)
  | [nch, ndig, lo, hi, chk] => some (nch, ndig, u16 lo hi, chk)
  | _ => none

/-- The operands of format `QT`. -/
def readQT : List Byte → Option (Word × Byte × Byte × Byte)
  | [lo, hi, edge, seconds, chk] => some (u16 lo hi, edge, seconds, chk)
  | _ => none

/-- The operands of format `QV`: size, data, checksum. -/
def readQV : List Byte → Option (List Word × Byte)
  | lo :: hi :: r =>
    let n := 2 * (u16 lo hi).toNat
    match r.drop n with
    | [chk] => some (wordsOf (r.take n), chk)
    | _ => none
  | _ => none

/-- The instruction of a command and the bytes that follow its code in the frame (R93, R96). -/
def readOperands (bs : List Byte) : Cmd → Option Instr
  | .fwstr => (readQ0 bs).map Instr.fwstr
  | .magicq => (readQ0 bs).map Instr.magicq
  | .caps => (readQ0 bs).map Instr.caps
  | .pins => (readQ0 bs).map Instr.pins
  | .anard => (readQB bs).map fun (b, chk) => Instr.anard b chk
  | .anawr => (readQBW bs).map fun (b, w, chk) => Instr.anawr b w chk
  | .setper => (readQD bs).map fun (d, chk) => Instr.setper d chk
  | .setsto => (readQS bs).map fun (nch, ndig, ns, chk) => Instr.setsto nch ndig ns chk
  | .asyncrd => (readQ0 bs).map Instr.asyncrd
  | .trigrd => (readQT bs).map fun (level, edge, seconds, chk) => Instr.trigrd level edge seconds chk
  | .steprsp => (readQW bs).map fun (w, chk) => Instr.steprsp w chk
  | .loadp => (readQV bs).map fun (data, chk) => Instr.loadp data chk
  | .loads => (readQV bs).map fun (data, chk) => Instr.loads data chk
  | .wresp => (readQW bs).map fun (w, chk) => Instr.wresp w chk
  | .dwresp => (readQW bs).map fun (w, chk) => Instr.dwresp w chk
  | .swresp => (readQBW bs).map fun (b, w, chk) => Instr.swresp b w chk
  | .wplay => (readQW bs).map fun (w, chk) => Instr.wplay w chk
  | .dwplay => (readQW bs).map fun (w, chk) => Instr.dwplay w chk
  | .diomode => (readQBB bs).map fun (b1, b2, chk) => Instr.diomode b1 b2 chk
  | .diowr => (readQBB bs).map fun (b1, b2, chk) => Instr.diowr b1 b2 chk
  | .diord => (readQB bs).map fun (b, chk) => Instr.diord b chk
  | .setnavg => (readQW bs).map fun (w, chk) => Instr.setnavg w chk
  | .softrst => (readQ0 bs).map Instr.softrst

/-- What the head of the receive stream is. -/
inductive Decoded where
  /-- a complete frame of a recognised command, and how many bytes it has -/
  | instr (i : Instr) (length : Nat)
  /-- an unrecognised command byte, a frame of one byte (R98, R103) -/
  | unrecognised (c : Byte)
  /-- the bytes of the frame have not all arrived (R103 "wait", R335) -/
  | incomplete
  deriving DecidableEq, Repr

/-- Decode the head of a byte stream (R103, R131). Total: every stream is a frame, an unrecognised byte, or
incomplete. -/
def decode (k : Codes) (rx : List Byte) : Decoded :=
  match frameLen k rx with
  | none => .incomplete
  | some n =>
    if rx.length < n then .incomplete
    else
      match rx.take n with
      | [] => .incomplete
      | c :: bs =>
        match k.find c with
        | none => .unrecognised c
        | some cmd =>
          match readOperands bs cmd with
          | none => .incomplete
          | some i => .instr i n

/-! ## Encoding -/

/-- The bytes of a load's data in link order (format QV). -/
def dataBytes : List Word → List Byte
  | [] => []
  | w :: r => loByte w :: hiByte w :: dataBytes r

/-- The parameter bytes of a request, between the command byte and the checksum byte (R93). -/
def Instr.params : Instr → List Byte
  | .fwstr _ | .magicq _ | .caps _ | .pins _ | .asyncrd _ | .softrst _ => []
  | .anard b _ | .diord b _ => [b]
  | .diomode b1 b2 _ | .diowr b1 b2 _ => [b1, b2]
  | .steprsp w _ | .wresp w _ | .dwresp w _ | .wplay w _ | .dwplay w _ | .setnavg w _ => wordBytes w
  | .anawr b w _ | .swresp b w _ => b :: wordBytes w
  | .setper d _ => decBytes d
  | .setsto nch ndig ns _ => nch :: ndig :: wordBytes ns
  | .trigrd level edge seconds _ => wordBytes level ++ [edge, seconds]
  | .loadp data _ | .loads data _ => wordBytes (BitVec.ofNat 16 data.length) ++ dataBytes data

/-- The bytes of a request before its checksum byte: what the receive checksum runs over (R91, R127). -/
def Instr.body (k : Codes) (i : Instr) : List Byte := k.of i.cmd :: i.params

/-- The frame of an instruction (R91, R93, R104). -/
def encode (k : Codes) (i : Instr) : List Byte := i.body k ++ [i.chk]

/-- The checksum byte a valid frame of this instruction ends with (R91). -/
def checksum (k : Codes) (i : Instr) : Byte := xorBytes (i.body k)

/-! ## The opcode table's words -/

/-- `n` bytes of a number, least significant first (how spec/opcode_table.json numbers a frame's bits). -/
def bytesOfNat : Nat → Nat → List Byte
  | 0, _ => []
  | n + 1, w => BitVec.ofNat 8 w :: bytesOfNat n (w / 256)

/-- The frame whose first bits are the `nbits` bits of `w` and whose further bytes are 0: the given bytes, padded with
zeros to the length the frame has by R103. -/
def frameOfWord (nbits w : Nat) : List Byte :=
  let given := bytesOfNat ((nbits + 7) / 8) (w % 2 ^ nbits)
  match frameLen Codes.reference (given ++ [0, 0, 0]) with
  | none => given
  | some n => (given ++ List.replicate n 0).take n

/-- The instruction the decoder reads from an instruction whose bits are `w`, under the reference codes. -/
def decodeTableWord (nbits w : Nat) : Option Instr :=
  match decode Codes.reference (frameOfWord nbits w) with
  | .instr i _ => some i
  | .unrecognised _ => none
  | .incomplete => none

end Sys2Proof
end

