-- ==== Sys2Proof/Machine/State.lean ====
section
/-! DEFINITION. State.lean: every piece of state spec/10_state.md gives the block, grouped as that file groups it, and
the model's own fields (cfg, env, agenda, turn, resets) that carry the arguments of the spec's step relation (R20).
Plain data throughout. INVENTORY.md lists each field with its width, rule and reset value. -/

namespace Sys2Proof.Machine

/-- The eight run commands: the values `x` of `POLL(x)` (R30). -/
inductive RunCmd where
  | asyncrd | trigrd | steprsp | wresp | dwresp | swresp | wplay | dwplay
  deriving DecidableEq, Repr

/-- `MPC`, the main agent's sequencer (R30). -/
inductive Mpc where
  | fetch
  | poll (x : RunCmd)
  deriving DecidableEq, Repr

/-- The eight kernels, the values of `ACTIVE` other than `None` (R31). -/
inductive Kernel where
  | kAsync | kTrig | kStep | kWresp | kDwresp | kSwresp | kWplay | kDwplay
  deriving DecidableEq, Repr

/-- `PHASE`, the trigger phase (R32). -/
inductive Phase where
  | prefill | armPre | armPost | capture
  deriving DecidableEq, Repr

/-- `TEDGE`, the edge mode: 0 = rising, 1 = falling (R28). -/
inductive Edge where
  | rising | falling
  deriving DecidableEq, Repr

/-- The configuration registers (spec/10_state.md section 2). -/
structure ConfigRegs where
  /-- `NCH`, analog channel count of a capture (R21) -/
  nch : BitVec 3
  /-- `NDIG`, digital channel count (R22) -/
  ndig : Byte
  /-- `NS`, sample count (R23) -/
  ns : Word
  /-- `PER`, sample period (R24) -/
  per : Dec
  /-- `NAVG`, averaging count (R25) -/
  navg : Word
  /-- `WS`, size of the primary wavetable (R26) -/
  ws : Word
  /-- `WS2`, size of the secondary wavetable (R26) -/
  ws2 : Word
  deriving DecidableEq, Repr

/-- TriggerConfig (R28). -/
structure TriggerConfig where
  /-- `TLEVEL` -/
  level : Word
  /-- `TEDGE` -/
  edge : Edge
  /-- `TOCNT`, the remaining timeout in ticks -/
  tocnt : BitVec 32
  deriving DecidableEq, Repr

/-- The five shared flags (R33 to R37). -/
structure Flags where
  ovr : Bool
  ovrErr : Bool
  toErr : Bool
  halt : Bool
  done : Bool
  deriving DecidableEq, Repr

/-- The link: the two byte streams (R51) and the two checksum accumulators (R39). -/
structure Link where
  /-- `RX`, bytes sent by the host and not yet consumed, oldest first -/
  rx : List Byte
  /-- `TX`, every byte the block has sent, oldest first -/
  tx : List Byte
  /-- `CRCRX` -/
  crcRx : Byte
  /-- `CRCTX` -/
  crcTx : Byte
  deriving DecidableEq, Repr

/-- The run registers (spec/10_state.md section 6) and `PHASE`. -/
structure RunRegs where
  /-- `SAMPLES` (R41) -/
  samples : Word
  /-- `CUR`, write cursor (R42) -/
  cur : Word
  /-- `NCHRUN`, channel count of the run (R43) -/
  nchrun : BitVec 3
  /-- `SELCH`, selected channel (R43) -/
  selch : BitVec 3
  /-- `PRE` (R44) -/
  pre : Word
  /-- `POST` (R44) -/
  post : Word
  /-- `TRIGIDX` (R45) -/
  trigIdx : Word
  /-- `STEPVAL` (R46) -/
  stepVal : Word
  /-- `STEPIDX` (R46) -/
  stepIdx : Word
  /-- `WPOS` (R47) -/
  wpos : Word
  /-- `WPOS2` (R47) -/
  wpos2 : Word
  /-- `WREP` (R48) -/
  wrep : Word
  /-- `WINF` (R48) -/
  winf : Bool
  /-- `PHASE` (R32) -/
  phase : Phase
  deriving DecidableEq, Repr

/-- The sample buffer as cells (byte address, byte), addresses strictly rising; word `i` of `buff` is the bytes `2i`
(low) and `2i + 1` (high). A byte that is not listed has not been written since the last hard reset.
notes/assumptions/6.md, notes/assumptions/7.md. -/
abbrev Memory := List Host.Cell

/-- One event on the block's outgoing interfaces (R55; the history is asked for by spec/60_exceptions.md R331), and
the requests to the environment with what they carry (spec/46_query_io_commands.md R288). -/
inductive OutEvent where
  /-- `DacWrite(d, v)` on the interface `dac[d]` (R331) -/
  | dac (d : Nat) (v : Word)
  /-- `attach(period)` on the `timer` interface (spec/43_scheduler_run.md R191) -/
  | timerAttach (period : Dec)
  /-- `detach` on the `timer` interface (R192) -/
  | timerDetach
  /-- the request `AdcRead(c)` on the interface `adc[c]` (R330) -/
  | adcRead (c : Nat)
  /-- the request `Platform.analogRead(c, n)` (R294) -/
  | analogRead (c : Byte) (n : Word)
  /-- the request `Platform.digitalRead(l)` (R298) -/
  | digitalRead (l : Byte)
  /-- the request `Platform.digitalMode(l, m)` (R296) -/
  | digitalMode (l m : Byte)
  /-- `Platform.digitalWrite(l, v)` (R297) -/
  | digitalWrite (l v : Byte)
  /-- the request `Platform.resetFlag()` (R292) -/
  | resetFlag
  /-- `Platform.softReset()` (spec/41_config_commands.md R153) -/
  | softReset
  deriving DecidableEq, Repr

/-- The model's own: the environment's coming answers, one queue per kind, oldest first, and the number of answers
given so far. A request that finds its queue empty gets a free value. notes/assumptions/5.md. -/
structure Env where
  /-- answers to `AdcRead` -/
  adc : List Word
  /-- answers to `Platform.analogRead` -/
  analog : List Word
  /-- answers to `Platform.digitalRead` -/
  digital : List Byte
  /-- answers to `Platform.digitalMode`, true for accept -/
  mode : List Bool
  /-- answers to `Platform.resetFlag` -/
  flag : List Byte
  /-- answers given so far, the argument of the free answers -/
  calls : Nat
  deriving DecidableEq, Repr

/-- The state of the block. -/
structure State where
  /-- the parameters (R20); no step writes this field -/
  cfg : Config
  conf : ConfigRegs
  trig : TriggerConfig
  /-- `MPC` (R30) -/
  mpc : Mpc
  /-- `ACTIVE` (R31); `none` is the spec's `None` -/
  active : Option Kernel
  flags : Flags
  link : Link
  /-- `DAC[d]`, d = 1 to NDAC, at position d − 1 (R40) -/
  dac : List Word
  run : RunRegs
  /-- `buff` (R50) -/
  mem : Memory
  /-- the events on the outgoing interfaces, oldest first (R331) -/
  io : List OutEvent
  /-- the model's own: the environment's answers -/
  env : Env
  /-- the model's own: the scripted coming events, first first -/
  agenda : List Event
  /-- the model's own: turns taken so far, the argument of the free next event -/
  turn : Nat
  /-- the model's own: hard resets so far, an argument of the free contents of `buff` -/
  resets : Nat
  deriving DecidableEq, Repr

/-- What stops the machine. The block itself has no fault (spec/60_exceptions.md R315): each of these is the model's
proof obligation of spec/93_implementation_defined.md U19, and is safe: no rule reaches it from a state that meets
`State.Inv`. notes/assumptions/8.md. -/
inductive Fault where
  /-- `MemRead` or `MemWrite` outside `buff` (spec/20_memory.md R60): raised by the two access operations. Safe. -/
  | bufferRange (index : Nat)
  /-- a counter below 0 or above its width (spec/40_codec_dispatch.md R134): raised by `narrow`, `increment`,
  `decrement`. Safe. -/
  | counterRange
  /-- an analog channel that does not exist (spec/60_exceptions.md R330, R331): raised by `AdcRead` and `DacWrite`, and
  by the triggered kernel of a run with no channel. Safe. -/
  | channelRange (channel : Nat)
  deriving DecidableEq, Repr

/-- What the model refuses. -/
inductive Refusal where
  /-- the instruction has no meaning yet: raised by exec's arms only. Safe. No arm raises it. -/
  | notModelled (mnemonic : String)
  deriving DecidableEq, Repr

/-- The configuration registers after hard and soft reset (R56, R57). -/
def ConfigRegs.initial (cfg : Config) : ConfigRegs :=
  { nch := cfg.nch0, ndig := 0, ns := cfg.ns0, per := cfg.per0, navg := cfg.navg0, ws := 0, ws2 := 0 }

/-- The run registers after hard reset, and after every run (R56, R58). -/
def RunRegs.initial : RunRegs :=
  { samples := 0, cur := 0, nchrun := 1, selch := 1, pre := 0, post := 0, trigIdx := 0, stepVal := 0,
    stepIdx := 0, wpos := 0, wpos2 := 0, wrep := 0, winf := false, phase := .prefill }

/-- The block with parameters `cfg` right after hard reset (R56), nothing scripted. -/
def State.initial (cfg : Config) : State :=
  { cfg := cfg
    conf := ConfigRegs.initial cfg
    trig := { level := 0, edge := .rising, tocnt := 0 }
    mpc := .fetch
    active := none
    flags := { ovr := false, ovrErr := false, toErr := false, halt := false, done := false }
    link := { rx := [], tx := [], crcRx := 0, crcTx := 0 }
    dac := List.replicate cfg.ndac.toNat 0
    run := RunRegs.initial
    mem := []
    io := []
    env := { adc := [], analog := [], digital := [], mode := [], flag := [], calls := 0 }
    agenda := []
    turn := 0
    resets := 0 }

/-- The machine right after hard reset, in the reference profile (R6, R56). -/
def State.reset : State := State.initial Config.reference

end Sys2Proof.Machine
end

