-- ==== Sys2Proof/Machine/Ops.lean ====
section
/-! DEFINITION. Ops.lean: the named operations of the block over its state: the buffer (spec/20_memory.md R60), the
codec's link side (spec/40_codec_dispatch.md R120 to R130), the exceptional replies as one shared operation
(spec/60_exceptions.md R311, R312), the converters and the timer (R330, R331, spec/43_scheduler_run.md R191, R192),
the platform's answers (spec/46_query_io_commands.md R288), and hard reset (spec/10_state.md R56). -/

namespace Sys2Proof.Machine

/-- The outcome of a step of this machine. -/
abbrev Result := Host.Outcome State Fault Refusal

/-- An operation's answer as the outcome of a step. -/
def settle : Except Fault State → Result
  | .ok s => .next s
  | .error f => .fault f

/-! ## Counters (R134: no counter passes its width) -/

/-- An exact natural number in a counter of `w` bits. -/
def narrow (w n : Nat) : Except Fault (BitVec w) :=
  if n < 2 ^ w then .ok (BitVec.ofNat w n) else .error .counterRange

/-- `c <- c + 1`. -/
def increment {w : Nat} (c : BitVec w) : Except Fault (BitVec w) := narrow w (c.toNat + 1)

/-- `c <- c − 1`. -/
def decrement {w : Nat} (c : BitVec w) : Except Fault (BitVec w) :=
  if c = 0 then .error .counterRange else .ok (c - 1)

/-! ## The sample buffer (R60, R62) -/

/-- The byte listed at an address, if that address has been written. -/
def Memory.find : Memory → Nat → Option Byte
  | [], _ => none
  | (a, b) :: r, x => if x = a then some b else Memory.find r x

/-- List a byte at an address, keeping the addresses strictly rising. -/
def Memory.set : Memory → Nat → Byte → Memory
  | [], x, v => [(x, v)]
  | (a, b) :: r, x, v =>
    if x < a then (x, v) :: (a, b) :: r
    else if x = a then (x, v) :: r
    else (a, b) :: Memory.set r x v

/-- The canonical form: addresses strictly rising. -/
def Memory.wf : Memory → Bool
  | [] => true
  | [_] => true
  | (a, _) :: (b, v) :: r => decide (a < b) && Memory.wf ((b, v) :: r)

/-- One byte of `buff`, by byte address: the byte written there, or the free value of R56 (stable: it depends on the
address and on which hard reset came last). -/
def byteAt (s : State) (a : Nat) : Byte := (Memory.find s.mem a).getD (Config.unwrittenByte s.resets a)

/-- The word `buff[i]`, whether or not `i` is in range. -/
def wordAt (s : State) (i : Nat) : Word := u16 (byteAt s (2 * i)) (byteAt s (2 * i + 1))

/-- `MemRead(i, 1)` (R60). -/
def memRead (i : Nat) (s : State) : Except Fault Word :=
  if i < s.cfg.bsize.toNat then .ok (wordAt s i) else .error (.bufferRange i)

/-- `MemWrite(i, 1, v)` (R60). -/
def memWrite (i : Nat) (v : Word) (s : State) : Except Fault State :=
  if i < s.cfg.bsize.toNat then
    .ok { s with mem := Memory.set (Memory.set s.mem (2 * i) (loByte v)) (2 * i + 1) (hiByte v) }
  else .error (.bufferRange i)

/-- `MemWrite` of consecutive words from index `i` (the load stores of R65). -/
def memWriteAll : Nat → List Word → State → Except Fault State
  | _, [], s => .ok s
  | i, v :: r, s =>
    match memWrite i v s with
    | .ok t => memWriteAll (i + 1) r t
    | .error f => .error f

/-! ## The link, sending side (R121 to R129) -/

/-- `PutByte(b)` (R121). -/
def putByte (b : Byte) (s : State) : State :=
  { s with link := { s.link with tx := s.link.tx ++ [b], crcTx := s.link.crcTx ^^^ b } }

/-- `PutByte` of each byte in order: `PutString` (R126), and the codec's other multi-byte fields. -/
def putBytes : List Byte → State → State
  | [], s => s
  | b :: r, s => putBytes r (putByte b s)

/-- `PutU16(w)` (R123). -/
def putU16 (w : Word) (s : State) : State := putByte (hiByte w) (putByte (loByte w) s)

/-- `PutDec(m, e)` (R125). -/
def putDec (d : Dec) (s : State) : State := putU16 (manWord d) (putByte (expByte d) s)

/-- `PutChecksum()` (R128). Sent as `PutByte(CRCTX)`, which is also how R127 sends it; notes/assumptions/14.md. -/
def putChecksum (s : State) : State := putByte s.link.crcTx s

/-- `ReplyAck()` (R129). -/
def replyAck (s : State) : State := putChecksum (putByte s.cfg.ack s)

/-- `ReplyStatus(st)` (R129). -/
def replyStatus (st : Byte) (s : State) : State := putChecksum (putByte st s)

/-! ## Exceptional replies: the counterpart of taking an exception (R310) -/

/-- Taking an exception: the code, the send checksum, and the command ends with `MPC` at `FETCH` (R311, R312). Nothing
is saved and there is no return: the next command is the return (R325, R326). -/
def raise (code : Byte) (s : State) : State := { putChecksum (putByte code s) with mpc := .fetch }

/-- `raise Nack` (R312, R313). -/
def raiseNack (s : State) : State := raise s.cfg.nack s

/-- `raise ChecksumError` (R311). -/
def raiseChecksumError (s : State) : State := raise s.cfg.ecrc s

/-- `RxCheck()` against the trailing byte `chk` (R127): on pass the handler goes on, on fail it ends. -/
def rxCheck (chk : Byte) (s : State) (handler : State → Result) : Result :=
  if chk = s.link.crcRx then handler s else .next (raiseChecksumError s)

/-! ## The link, receiving side (R120, R127, R130) -/

/-- `GetByte()`: take the head of `RX` into `CRCRX` (R120). The byte's value reaches the handler through the decoder. -/
def getByte (s : State) : State :=
  match s.link.rx with
  | [] => s
  | b :: r => { s with link := { s.link with rx := r, crcRx := s.link.crcRx ^^^ b } }

/-- `n` times `GetByte()`. -/
def getBytes : Nat → State → State
  | 0, s => s
  | n + 1, s => getBytes n (getByte s)

/-- The plain removal of the trailing byte, which `CRCRX` never includes (R127). -/
def dropByte (s : State) : State := { s with link := { s.link with rx := s.link.rx.tail } }

/-- The dispatcher prologue (R130): zero both checksums, take the command byte, clear `HALT`. -/
def prologue (s : State) : State :=
  let s := getByte { s with link := { s.link with crcRx := 0, crcTx := 0 } }
  { s with flags := { s.flags with halt := false } }

/-- The state in which the handler of a frame of `n` bytes makes its receive-check: prologue, parameter bytes taken by
`GetByte`, trailing byte removed (R130, R132 part 1). -/
def acceptFrame (n : Nat) (s : State) : State := dropByte (getBytes (n - 2) (prologue s))

/-! ## Interfaces (R55) -/

/-- Record an event on an outgoing interface. -/
def emit (e : OutEvent) (s : State) : State := { s with io := s.io ++ [e] }

/-- `DacWrite(d, v)` (R331). -/
def dacWrite (d : Nat) (v : Word) (s : State) : Except Fault State :=
  if 1 ≤ d ∧ d ≤ s.cfg.ndac.toNat then .ok (emit (.dac d v) { s with dac := s.dac.set (d - 1) v })
  else .error (.channelRange d)

/-- The value of `DAC[d]` (R40). -/
def dacAt (s : State) (d : Nat) : Word := s.dac.getD (d - 1) 0

/-- `DacWrite(d, v)` for each of a list of outputs, in order. -/
def dacWriteAll (v : Word) : List Nat → State → Except Fault State
  | [], s => .ok s
  | d :: r, s =>
    match dacWrite d v s with
    | .ok t => dacWriteAll v r t
    | .error f => .error f

/-- `AdcRead(c)` (R330): the environment's next answer, or a free value. -/
def adcRead (c : Nat) (s : State) : Except Fault (Word × State) :=
  if 1 ≤ c ∧ c ≤ s.cfg.nadc.toNat then
    .ok (s.env.adc.headD (Config.freeAdc s.env.calls c),
      emit (.adcRead c) { s with env := { s.env with adc := s.env.adc.tail, calls := s.env.calls + 1 } })
  else .error (.channelRange c)

/-- `Platform.analogRead(c, n)` (R288, R294). -/
def analogRead (c : Byte) (n : Word) (s : State) : Word × State :=
  (s.env.analog.headD (Config.freeAnalog s.env.calls c n),
    emit (.analogRead c n) { s with env := { s.env with analog := s.env.analog.tail, calls := s.env.calls + 1 } })

/-- `Platform.digitalRead(l)` (R288, R298). -/
def digitalRead (l : Byte) (s : State) : Byte × State :=
  (s.env.digital.headD (Config.freeDigital s.env.calls l),
    emit (.digitalRead l) { s with env := { s.env with digital := s.env.digital.tail, calls := s.env.calls + 1 } })

/-- `Platform.digitalMode(l, m)`: true for accept (R288, R296). -/
def digitalMode (l m : Byte) (s : State) : Bool × State :=
  (s.env.mode.headD (Config.freeMode s.env.calls l m),
    emit (.digitalMode l m) { s with env := { s.env with mode := s.env.mode.tail, calls := s.env.calls + 1 } })

/-- `Platform.resetFlag()` (R288, R292). -/
def resetFlag (s : State) : Byte × State :=
  (s.env.flag.headD (Config.freeFlag s.env.calls),
    emit .resetFlag { s with env := { s.env with flag := s.env.flag.tail, calls := s.env.calls + 1 } })

/-! ## Scheduler primitives (R191, R192) -/

/-- `Attach(k)` (R191). -/
def attach (k : Kernel) (s : State) : State := emit (.timerAttach s.conf.per) { s with active := some k }

/-- `Detach()` (R192). -/
def detach (s : State) : State :=
  let s := emit .timerDetach s
  { s with active := none, flags := { s.flags with done := true } }

/-! ## Hard reset (R56, R350 to R352) -/

/-- The hard reset event: every register at its reset value, both streams and the interface history started anew, the
contents of `buff` free again. The parameters, the environment and the order of events are not the block's and go on. -/
def hardReset (s : State) : State :=
  { State.initial s.cfg with env := s.env, agenda := s.agenda, turn := s.turn, resets := s.resets + 1 }

end Sys2Proof.Machine
end

