-- ==== Sys2Proof/Machine/Operands.lean ====
section
/-! DEFINITION. Operands.lean: what the handlers and kernels compute from operands: exact decimal arithmetic
(spec/40_codec_dispatch.md R135), the legality of operand fields (spec/30_encoding.md R100), the reservation check
(spec/42_allocator_commands.md R175), the effective addresses of spec/20_memory.md R65, and the trigger timeout
(spec/44_capture_kernels.md R226). -/

namespace Sys2Proof.Machine

/-! ## Decimals (R135) -/

/-- `m · 10^(e − base)` for `base ≤ e`. -/
def decScaled (d : Dec) (base : Int) : Int := d.m * ((10 ^ (d.e - base).toNat : Nat) : Int)

/-- The exact comparison of two decimal values (R135 (a)). -/
def exactLess (a b : Dec) : Bool :=
  let base := min a.e b.e
  decide (decScaled a base < decScaled b base)

/-- `floor(s / (m · 10^e))`, exact, for `m ≥ 1` (R135 (b)). -/
def exactQuotient (s : Nat) (d : Dec) : Nat :=
  if d.e ≤ 0 then s * 10 ^ (-d.e).toNat / d.m.toNat else s / (d.m.toNat * 10 ^ d.e.toNat)

/-- The comparison the profile uses (R135: a replaceable function, exact by default). -/
def decLess (cfg : Config) (a b : Dec) : Bool :=
  match cfg.arith with
  | .exact => exactLess a b
  | .platform => Config.platformLess a b

/-- The timeout quotient the profile uses (R135). -/
def timeoutQuotient (cfg : Config) (seconds : Byte) (period : Dec) : Nat :=
  match cfg.arith with
  | .exact => exactQuotient seconds.toNat period
  | .platform => (Config.platformTicks seconds period).toNat

/-- `TimeoutTicks(seconds)` (R226). -/
def timeoutTicks (cfg : Config) (seconds : Byte) (period : Dec) : Nat :=
  let t := timeoutQuotient cfg seconds period
  if t = 0 ∧ cfg.timeoutZero = .immediate then 1 else t

/-! ## Legal operand values (R100) -/

/-- A period in [PMIN, PMAX] (R150). -/
def periodLegal (cfg : Config) (p : Dec) : Bool := !decLess cfg p cfg.pmin && !decLess cfg cfg.pmax p

/-- The storage parameters SETSTO accepts before it looks at the capacity (R151). -/
def storageLegal (nch ndig : Byte) (ns : Word) : Bool :=
  decide (1 ≤ nch.toNat) && decide (nch.toNat ≤ 4) && decide (ndig = 0) && decide (ns ≠ 0)

/-- The edge mode of a wire value, if it is one of the two codes (R225). -/
def edgeOfCode (cfg : Config) (b : Byte) : Option Edge :=
  if b = cfg.edgeRising then some .rising else if b = cfg.edgeFalling then some .falling else none

/-- A number from 1 to `n`: how channels and lines are numbered (R294, R295, R297, R298). -/
def numbered (b n : Byte) : Bool := decide (1 ≤ b.toNat) && decide (b.toNat ≤ n.toNat)

/-- The channels SWRESP accepts (R266). -/
def selectable (b : Byte) : Bool := decide (1 ≤ b.toNat) && decide (b.toNat ≤ 4)

/-! ## The allocator (R27, R175) -/

/-- `TBASE`, the first index of the transient region (R27). -/
def tbase (s : State) : Nat := s.conf.ws.toNat + s.conf.ws2.toNat

/-- `TCAP`, its capacity in words (R27). -/
def tcap (s : State) : Nat := s.cfg.bsize.toNat - s.conf.ws.toNat - s.conf.ws2.toNat

/-- `reserveTransient(nch, ns)`: `nch · ns ≤ BSIZE − WS − WS2`, formed without truncation (R175). -/
def reserveTransient (nch ns : Nat) (s : State) : Bool := decide (nch * ns + tbase s ≤ s.cfg.bsize.toNat)

/-- LOADP's size check: the size does not exceed the whole capacity (R171). -/
def primaryFits (size : Nat) (s : State) : Bool := decide (size ≤ s.cfg.bsize.toNat)

/-- LOADS's size check: `size ≤ BSIZE − WS` (R173). -/
def secondaryFits (size : Nat) (s : State) : Bool := decide (size + s.conf.ws.toNat ≤ s.cfg.bsize.toNat)

/-! ## Effective addresses (R65) -/

/-- The index of the primary wave read. -/
def primaryWaveIndex (s : State) : Nat := s.run.wpos.toNat

/-- The index of the secondary wave read. -/
def secondaryWaveIndex (s : State) : Nat := s.conf.ws.toNat + s.run.wpos2.toNat

/-- The index of the next transient store. -/
def storeIndex (s : State) : Nat := tbase s + s.run.cur.toNat

/-- The index of slot `f`, channel offset `c`, in the transient region (R67). -/
def slotIndex (s : State) (f c : Nat) : Nat := tbase s + f * s.run.nchrun.toNat + c

/-- The words in one sample frame times the frames of the run: where the circular cursor wraps (R42). -/
def runWords (s : State) : Nat := s.run.nchrun.toNat * s.conf.ns.toNat

/-- The slot a triggered read's reply starts at (R197). -/
def triggerStart (s : State) : Nat :=
  let ns := s.conf.ns.toNat
  (s.run.trigIdx.toNat + ns - ns / 2) % ns

/-- The indices a capture reply reads, in the order it sends them: all slots of channel 1 from slot `start` on, then
all of channel 2, and so on (R67, R199). -/
def drainIndices (s : State) (start : Nat) : List Nat :=
  (List.range s.run.nchrun.toNat).flatMap fun c =>
    (List.range s.conf.ns.toNat).map fun j => slotIndex s ((start + j) % s.conf.ns.toNat) c

/-- The channels one tick samples, in order (R195). -/
def inputChannels (s : State) : List Nat :=
  (List.range s.run.nchrun.toNat).map fun i => if s.active = some .kSwresp then s.run.selch.toNat else i + 1

end Sys2Proof.Machine
end

