-- ==== Sys2Proof/Machine/Flags.lean ====
section
/-! DEFINITION. Flags.lean: every rule that computes one of the five shared flags (spec/10_state.md R33 to R38), the
status code formed from them (spec/43_scheduler_run.md R198), and the trigger's comparisons
(spec/44_capture_kernels.md R230, R231). -/

namespace Sys2Proof.Machine

/-- The halt step: `HALT <- 1` (spec/60_exceptions.md R321). -/
def haltStep (s : State) : State := { s with flags := { s.flags with halt := true } }

/-- The overrun handshake at the start of a tick (R193). -/
def overrunHandshake (s : State) : State :=
  { s with flags := { s.flags with ovr := true, ovrErr := s.flags.ovrErr || s.flags.ovr } }

/-- What a poll step that finds `DONE = 0` does: `OVR <- 0` (R196). -/
def acknowledgeTick (s : State) : State := { s with flags := { s.flags with ovr := false } }

/-- The flags a run starts with; `HALT` is not written (R194). -/
def clearRunFlags (f : Flags) : Flags := { f with ovr := false, ovrErr := false, toErr := false, done := false }

/-- `TOERR <- 1` (R228). -/
def recordTimeout (s : State) : State := { s with flags := { s.flags with toErr := true } }

/-- `Status()`: halted, then timeout, then overrun, then OK (R198). -/
def status (s : State) : Byte :=
  if s.flags.halt then s.cfg.stHalted
  else if s.flags.toErr then s.cfg.stTimeout
  else if s.flags.ovrErr then s.cfg.stOverrun
  else s.cfg.stOk

/-- The sample lies strictly on the side opposite the trigger (R230). -/
def arms (edge : Edge) (level a : Word) : Bool :=
  match edge with
  | .rising => decide (a < level)
  | .falling => decide (a > level)

/-- The sample lies strictly on the trigger side (R231). -/
def crosses (edge : Edge) (level a : Word) : Bool :=
  match edge with
  | .rising => decide (a > level)
  | .falling => decide (a < level)

end Sys2Proof.Machine
end

