-- ==== Sys2Proof/Machine/AllocatorCmds.lean ====
section
/-! DEFINITION. AllocatorCmds.lean: LOADP and LOADS (spec/42_allocator_commands.md). -/

namespace Sys2Proof.Machine

/-- The spans after an accepted primary load: `WS <- size`, and the secondary span is cleared when the two no longer
fit (R171, R172). -/
def commitPrimary (size : Nat) (s : State) : State :=
  { s with conf := { s.conf with
      ws := BitVec.ofNat 16 size
      ws2 := if size + s.conf.ws2.toNat > s.cfg.bsize.toNat then 0 else s.conf.ws2 } }

/-- `WS <- 0`, the secondary span's size untouched (R171, R176). -/
def clearPrimary (s : State) : State := { s with conf := { s.conf with ws := 0 } }

/-- `WS2 <- 0`, the primary span's size untouched (R173, R176). -/
def clearSecondary (s : State) : State := { s with conf := { s.conf with ws2 := 0 } }

/-- LOADP, load primary wavetable (R171, R172, R176): the words of an acceptable size are stored before the
receive-check; those of a larger size are discarded. -/
def execLoadp (data : List Word) (chk : Byte) (s : State) : Result :=
  if primaryFits data.length s then
    match memWriteAll 0 data s with
    | .error f => .fault f
    | .ok t =>
      if chk = t.link.crcRx then .next (replyAck (commitPrimary data.length t))
      else .next (clearPrimary (raiseChecksumError t))
  else rxCheck chk s fun s => .next (raiseNack (clearPrimary s))

/-- LOADS, load secondary wavetable (R173, R176). -/
def execLoads (data : List Word) (chk : Byte) (s : State) : Result :=
  if secondaryFits data.length s then
    match memWriteAll s.conf.ws.toNat data s with
    | .error f => .fault f
    | .ok t =>
      if chk = t.link.crcRx then
        .next (replyAck { t with conf := { t.conf with ws2 := BitVec.ofNat 16 data.length } })
      else .next (clearSecondary (raiseChecksumError t))
  else rxCheck chk s fun s => .next (raiseNack (clearSecondary s))

end Sys2Proof.Machine
end

