-- ==== Sys2Proof/Machine/Scheduler.lean ====
section
/-! DEFINITION. Scheduler.lean: what all runs share (spec/43_scheduler_run.md): run start (R194), the sampling of one
tick (R195), the tick prologue (R193), the capture reply (R199), the end of a run (R197, spec/10_state.md R58) and the
poll step. -/

namespace Sys2Proof.Machine

/-- The kernels that record nothing and so need no reservation (R194). -/
def playsOnly : Kernel → Bool
  | .kWplay | .kDwplay => true
  | .kAsync | .kTrig | .kStep | .kWresp | .kDwresp | .kSwresp => false

/-- The registers and flags every run starts with, before the command's own `init` (R194). `nch` is `none` for the
wave-play commands, whose channel count is unused: `NCHRUN` then keeps its value, notes/assumptions/15.md. -/
def runRegisters (nch : Option (BitVec 3)) (s : State) : State :=
  { s with
    run := { s.run with nchrun := nch.getD s.run.nchrun, samples := 0, cur := 0 }
    flags := clearRunFlags s.flags }

/-- The last part of a run start: `Attach(k)`, `MPC <- POLL(x)` (R194). -/
def launch (k : Kernel) (x : RunCmd) (s : State) : State := { attach k s with mpc := .poll x }

/-- Run start of a capture command: reservation check, registers, `init`, attach (R194). -/
def startCapture (k : Kernel) (x : RunCmd) (nch : BitVec 3) (init : State → Except Fault State) (s : State) : Result :=
  if reserveTransient nch.toNat s.conf.ns.toNat s then
    match init (runRegisters (some nch) s) with
    | .ok t => .next (launch k x t)
    | .error f => .fault f
  else .next (raiseNack s)

/-- Run start of a wave-play command: no reservation check (R194, spec/45_wave_kernels.md R268). -/
def startPlay (k : Kernel) (x : RunCmd) (init : State → State) (s : State) : Result :=
  .next (launch k x (init (runRegisters none s)))

/-! ## Sampling (R195) -/

/-- One channel of `StoreInputs`: read it, store the word at the cursor, advance the cursor. -/
def storeInput (c : Nat) (s : State) : Except Fault (Word × State) :=
  match adcRead c s with
  | .error f => .error f
  | .ok (v, s) =>
    match memWrite (storeIndex s) v s with
    | .error f => .error f
    | .ok s =>
      match increment s.run.cur with
      | .error f => .error f
      | .ok cur => .ok (v, { s with run := { s.run with cur := cur } })

/-- `storeInput` for each of a list of channels, in order; the words read, in order. -/
def storeChannels : List Nat → State → Except Fault (List Word × State)
  | [], s => .ok ([], s)
  | c :: r, s =>
    match storeInput c s with
    | .error f => .error f
    | .ok (v, s) =>
      match storeChannels r s with
      | .error f => .error f
      | .ok (vs, s) => .ok (v :: vs, s)

/-- `StoreInputs()` (R195): the words of this tick's sample frame, the first channel's first. -/
def storeInputs (s : State) : Except Fault (List Word × State) := storeChannels (inputChannels s) s

/-- `SAMPLES <- SAMPLES + 1`, and `Detach()` when it reaches `NS`: how every linear capture counts (R221, R236, R261). -/
def countSample (s : State) : Except Fault State :=
  match increment s.run.samples with
  | .error f => .error f
  | .ok n =>
    let s := { s with run := { s.run with samples := n } }
    .ok (if n = s.conf.ns then detach s else s)

/-- `if CUR = NCHRUN·NS then CUR <- 0`: the circular cursor (R221, R228). -/
def wrapCursor (s : State) : State :=
  if s.run.cur.toNat = runWords s then { s with run := { s.run with cur := 0 } } else s

/-! ## Ending a run (R58, R197, R199) -/

/-- The run registers and the flags other than `HALT` back at their reset values (R58). -/
def endRun (s : State) : State := { s with run := RunRegs.initial, flags := clearRunFlags s.flags }

/-- `PutU16` of the words at a list of indices, in order. -/
def sendWords : List Nat → State → Except Fault State
  | [], s => .ok s
  | i :: r, s =>
    match memRead i s with
    | .ok v => sendWords r (putU16 v s)
    | .error f => .error f

/-- The five bytes before the samples of a capture reply (R199, spec/30_encoding.md R94). -/
def sendHeader (st : Byte) (s : State) : State :=
  putU16 s.conf.ns (putByte s.conf.ndig (putByte (BitVec.setWidth 8 s.run.nchrun) (putByte st s)))

/-- `SendCapture(st, start)` (R199). -/
def sendCapture (st : Byte) (start : Nat) (s : State) : Except Fault State :=
  match sendWords (drainIndices s start) (sendHeader st s) with
  | .ok s => .ok (putChecksum s)
  | .error f => .error f

/-- The reply a run ends with (R197). -/
def runReply (x : RunCmd) (s : State) : Except Fault State :=
  match x with
  | .wplay | .dwplay => .ok (replyStatus (status s) s)
  | .trigrd => sendCapture (status s) (triggerStart s) s
  | .asyncrd | .steprsp | .wresp | .dwresp | .swresp => sendCapture (status s) 0 s

/-- The poll step of `POLL(x)` (R196, R197). -/
def pollStep (x : RunCmd) (s : State) : Result :=
  if s.flags.done then
    match runReply x s with
    | .ok t => .next { endRun t with mpc := .fetch }
    | .error f => .fault f
  else .next (acknowledgeTick s)

end Sys2Proof.Machine
end

