-- ==== Sys2Proof/Machine/CaptureCmds.lean ====
section
/-! DEFINITION. CaptureCmds.lean: ASYNCRD, TRIGRD, STEPRSP (spec/44_capture_kernels.md). Each starts a run; its reply
is sent by the poll step that ends the run (spec/43_scheduler_run.md R197). -/

namespace Sys2Proof.Machine

/-- ASYNCRD, async read (R220). -/
def execAsyncrd (chk : Byte) (s : State) : Result :=
  rxCheck chk s fun s => startCapture .kAsync .asyncrd s.conf.nch .ok s

/-- The registers a triggered run starts with (R225, R227). -/
def initTrigger (level : Word) (edge : Edge) (seconds : Byte) (s : State) : Except Fault State :=
  match narrow 32 (timeoutTicks s.cfg seconds s.conf.per) with
  | .error f => .error f
  | .ok ticks =>
    let half := s.conf.ns.toNat / 2
    .ok { s with
      trig := { level := level, edge := edge, tocnt := ticks }
      run := { s.run with
        pre := BitVec.ofNat 16 half
        post := BitVec.ofNat 16 (s.conf.ns.toNat - half - 1)
        trigIdx := 0
        phase := .prefill } }

/-- TRIGRD, triggered read (R225). -/
def execTrigrd (level : Word) (edge seconds : Byte) (chk : Byte) (s : State) : Result :=
  rxCheck chk s fun s =>
    match edgeOfCode s.cfg edge with
    | none => .next (raiseNack s)
    | some e => startCapture .kTrig .trigrd s.conf.nch (initTrigger level e seconds) s

/-- The registers a step run starts with (R235). -/
def initStep (value : Word) (s : State) : Except Fault State :=
  .ok { s with run := { s.run with stepVal := value, stepIdx := BitVec.ofNat 16 (s.conf.ns.toNat / 5) } }

/-- STEPRSP, step response (R235). -/
def execSteprsp (value : Word) (chk : Byte) (s : State) : Result :=
  rxCheck chk s fun s => startCapture .kStep .steprsp s.conf.nch (initStep value) s

end Sys2Proof.Machine
end

