-- ==== Sys2Proof/Machine/ConfigCmds.lean ====
section
/-! DEFINITION. ConfigCmds.lean: SETPER, SETSTO, SETNAVG, SOFTRST (spec/41_config_commands.md). -/

namespace Sys2Proof.Machine

/-- SETPER, set sample period (R150). -/
def execSetper (period : Dec) (chk : Byte) (s : State) : Result :=
  rxCheck chk s fun s =>
    if periodLegal s.cfg period then .next (replyAck { s with conf := { s.conf with per := period } })
    else .next (raiseNack s)

/-- SETSTO, configure storage (R151). -/
def execSetsto (nch ndig : Byte) (ns : Word) (chk : Byte) (s : State) : Result :=
  rxCheck chk s fun s =>
    if storageLegal nch ndig ns && reserveTransient nch.toNat ns.toNat s then
      .next (replyAck { s with conf := { s.conf with nch := BitVec.setWidth 3 nch, ndig := 0, ns := ns } })
    else .next (raiseNack s)

/-- SETNAVG, averaging-count set; a request of 0 is stored as 1 (R152). -/
def execSetnavg (count : Word) (chk : Byte) (s : State) : Result :=
  rxCheck chk s fun s =>
    .next (replyAck { s with conf := { s.conf with navg := if count = 0 then 1 else count } })

/-- Every analog output, in ascending order (R153). -/
def outputs (s : State) : List Nat := (List.range s.cfg.ndac.toNat).map (· + 1)

/-- SOFTRST, soft reset: configuration and outputs to their reset values (R153, R57). -/
def execSoftrst (chk : Byte) (s : State) : Result :=
  rxCheck chk s fun s =>
    match dacWriteAll 0 (outputs s) { s with conf := ConfigRegs.initial s.cfg } with
    | .ok t => .next (replyAck (emit .softReset t))
    | .error f => .fault f

end Sys2Proof.Machine
end

