-- ==== Sys2Proof/Machine/QueryCmds.lean ====
section
/-! DEFINITION. QueryCmds.lean: FWSTR, MAGICQ, CAPS, PINS, ANARD, ANAWR, DIOMODE, DIOWR, DIORD
(spec/46_query_io_commands.md). What the platform answers is State.env's or a free value. -/

namespace Sys2Proof.Machine

/-- FWSTR, firmware-string query (R290). -/
def execFwstr (chk : Byte) (s : State) : Result :=
  rxCheck chk s fun s => .next (putChecksum (putBytes s.cfg.platform.fwString s))

/-- PINS, pin-list query (R293). -/
def execPins (chk : Byte) (s : State) : Result :=
  rxCheck chk s fun s => .next (putChecksum (putBytes s.cfg.platform.pinList s))

/-- The four bytes `MAGIC[0..3]` (R291). -/
def magicBytes (cfg : Config) : List Byte := [cfg.magic0, cfg.magic1, cfg.magic2, cfg.magic3]

/-- MAGICQ, magic-ID query (R291). -/
def execMagicq (chk : Byte) (s : State) : Result :=
  rxCheck chk s fun s => .next (putChecksum (putBytes (magicBytes s.cfg) s))

/-- Offsets 0 to 21 of the capability reply (R292). -/
def putCapabilities (s : State) : State :=
  let p := s.cfg.platform
  let s := putByte s.cfg.ndac s
  let s := putByte s.cfg.nadc s
  let s := putU16 s.cfg.bsize s
  let s := putDec s.cfg.pmax s
  let s := putDec s.cfg.pmin s
  let s := putDec p.vdd s
  let s := putDec p.fmax s
  let s := putDec p.vref s
  let s := putByte p.dacBits s
  let s := putByte p.adcBits s
  putByte p.ndio s

/-- CAPS, capability query (R292). -/
def execCaps (chk : Byte) (s : State) : Result :=
  rxCheck chk s fun s =>
    let (flag, s) := resetFlag (putCapabilities s)
    .next (putChecksum (putByte flag s))

/-- ANARD, analog read (R294). -/
def execAnard (channel : Byte) (chk : Byte) (s : State) : Result :=
  rxCheck chk s fun s =>
    if numbered channel s.cfg.nadc then
      let (v, s) := analogRead channel s.conf.navg s
      .next (putChecksum (putU16 v s))
    else .next (raiseNack s)

/-- ANAWR, analog write (R295). -/
def execAnawr (channel : Byte) (value : Word) (chk : Byte) (s : State) : Result :=
  rxCheck chk s fun s =>
    if numbered channel s.cfg.ndac then
      match dacWrite channel.toNat value s with
      | .ok t => .next (replyAck t)
      | .error f => .fault f
    else .next (raiseNack s)

/-- DIOMODE, digital-mode set (R296). -/
def execDiomode (line mode : Byte) (chk : Byte) (s : State) : Result :=
  rxCheck chk s fun s =>
    let (accepted, s) := digitalMode line mode s
    if accepted then .next (replyAck s) else .next (raiseNack s)

/-- DIOWR, digital write (R297). -/
def execDiowr (line value : Byte) (chk : Byte) (s : State) : Result :=
  rxCheck chk s fun s =>
    if numbered line s.cfg.platform.ndio then .next (replyAck (emit (.digitalWrite line value) s))
    else .next (raiseNack s)

/-- DIORD, digital read (R298). -/
def execDiord (line : Byte) (chk : Byte) (s : State) : Result :=
  rxCheck chk s fun s =>
    if numbered line s.cfg.platform.ndio then
      let (b, s) := digitalRead line s
      .next (putChecksum (putByte b (putByte s.cfg.ack s)))
    else .next (raiseNack s)

end Sys2Proof.Machine
end

