-- ==== Sys2Proof/Machine/WaveCmds.lean ====
section
/-! DEFINITION. WaveCmds.lean: WRESP, DWRESP, SWRESP, WPLAY, DWPLAY (spec/45_wave_kernels.md). -/

namespace Sys2Proof.Machine

/-- The tables a wave command plays are not empty: the primary always, the secondary for a dual command (R260). -/
def tablesLoaded (dual : Bool) (s : State) : Bool :=
  decide (s.conf.ws ≠ 0) && (!dual || decide (s.conf.ws2 ≠ 0))

/-- The wave registers of a wave-response run (R264 to R266). -/
def initResponse (dual : Bool) (count : Word) (s : State) : Except Fault State :=
  .ok { s with run := { s.run with wpos := 0, wpos2 := if dual then 0 else s.run.wpos2, wrep := count } }

/-- The wave registers of a wave-play run; a count of 0 plays until halted (R268, R269). -/
def initPlay (dual : Bool) (count : Word) (s : State) : State :=
  { s with run := { s.run with
      wpos := 0
      wpos2 := if dual then 0 else s.run.wpos2
      wrep := count
      winf := decide (count = 0) } }

/-- WRESP, wave response with one output (R264). -/
def execWresp (count : Word) (chk : Byte) (s : State) : Result :=
  rxCheck chk s fun s =>
    if tablesLoaded false s then startCapture .kWresp .wresp s.conf.nch (initResponse false count) s
    else .next (raiseNack s)

/-- DWRESP, wave response with two outputs (R265). -/
def execDwresp (count : Word) (chk : Byte) (s : State) : Result :=
  rxCheck chk s fun s =>
    if tablesLoaded true s then startCapture .kDwresp .dwresp s.conf.nch (initResponse true count) s
    else .next (raiseNack s)

/-- `SELCH <- channel`, then the wave registers (R266). -/
def initSelected (channel : Byte) (count : Word) (s : State) : Except Fault State :=
  initResponse false count { s with run := { s.run with selch := BitVec.setWidth 3 channel } }

/-- SWRESP, single-channel wave response: one channel whatever `NCH` is (R266). -/
def execSwresp (channel : Byte) (count : Word) (chk : Byte) (s : State) : Result :=
  rxCheck chk s fun s =>
    if selectable channel && tablesLoaded false s then
      startCapture .kSwresp .swresp 1 (initSelected channel count) s
    else .next (raiseNack s)

/-- WPLAY, wave play with one output (R268). -/
def execWplay (count : Word) (chk : Byte) (s : State) : Result :=
  rxCheck chk s fun s =>
    if tablesLoaded false s then startPlay .kWplay .wplay (initPlay false count) s else .next (raiseNack s)

/-- DWPLAY, wave play with two outputs (R269). -/
def execDwplay (count : Word) (chk : Byte) (s : State) : Result :=
  rxCheck chk s fun s =>
    if tablesLoaded true s then startPlay .kDwplay .dwplay (initPlay true count) s else .next (raiseNack s)

end Sys2Proof.Machine
end

