-- ==== Sys2Proof/Machine/Dispatch.lean ====
section
/-! DEFINITION. Dispatch.lean: the handler of each command (spec/40_codec_dispatch.md R131): one arm per constructor
of Instr. -/

namespace Sys2Proof.Machine

/-- The handler of a recognised command, from the receive-check on (R131, R132). -/
def exec (i : Instr) (s : State) : Host.Outcome State Fault Refusal :=
  match i with
  | .fwstr chk => Sys2Proof.Machine.execFwstr chk s
  | .magicq chk => Sys2Proof.Machine.execMagicq chk s
  | .caps chk => Sys2Proof.Machine.execCaps chk s
  | .pins chk => Sys2Proof.Machine.execPins chk s
  | .anard channel chk => Sys2Proof.Machine.execAnard channel chk s
  | .anawr channel value chk => Sys2Proof.Machine.execAnawr channel value chk s
  | .setper period chk => Sys2Proof.Machine.execSetper period chk s
  | .setsto nch ndig ns chk => Sys2Proof.Machine.execSetsto nch ndig ns chk s
  | .asyncrd chk => Sys2Proof.Machine.execAsyncrd chk s
  | .trigrd level edge seconds chk => Sys2Proof.Machine.execTrigrd level edge seconds chk s
  | .steprsp value chk => Sys2Proof.Machine.execSteprsp value chk s
  | .loadp data chk => Sys2Proof.Machine.execLoadp data chk s
  | .loads data chk => Sys2Proof.Machine.execLoads data chk s
  | .wresp count chk => Sys2Proof.Machine.execWresp count chk s
  | .dwresp count chk => Sys2Proof.Machine.execDwresp count chk s
  | .swresp channel count chk => Sys2Proof.Machine.execSwresp channel count chk s
  | .wplay count chk => Sys2Proof.Machine.execWplay count chk s
  | .dwplay count chk => Sys2Proof.Machine.execDwplay count chk s
  | .diomode line mode chk => Sys2Proof.Machine.execDiomode line mode chk s
  | .diowr line value chk => Sys2Proof.Machine.execDiowr line value chk s
  | .diord line chk => Sys2Proof.Machine.execDiord line chk s
  | .setnavg count chk => Sys2Proof.Machine.execSetnavg count chk s
  | .softrst chk => Sys2Proof.Machine.execSoftrst chk s

end Sys2Proof.Machine
end

