-- ==== Sys2Proof/Machine/Kernels.lean ====
section
/-! DEFINITION. Kernels.lean: the eight tick kernels (spec/44_capture_kernels.md R221, R228 to R232, R236;
spec/45_wave_kernels.md R261, R262, R267) and the tick step (spec/43_scheduler_run.md R190, R193). -/

namespace Sys2Proof.Machine

/-! ## Free-run sampler -/

/-- `K_ASYNC` (R221). -/
def tickAsync (s : State) : Except Fault State :=
  match storeInputs s with
  | .error f => .error f
  | .ok (_, s) => countSample (wrapCursor s)

/-! ## Triggered capture -/

/-- Phase Prefill (R229). -/
def phasePrefill (s : State) : State :=
  let pre := if s.run.pre = 0 then s.run.pre else s.run.pre - 1
  { s with run := { s.run with pre := pre, phase := if pre = 0 then .armPre else s.run.phase } }

/-- Phase ArmPre, with this tick's sample of the first channel (R230). -/
def phaseArmPre (a : Word) (s : State) : State :=
  if arms s.trig.edge s.trig.level a then { s with run := { s.run with phase := .armPost } } else s

/-- Phase ArmPost, with this tick's sample and slot (R231). -/
def phaseArmPost (a slot : Word) (s : State) : State :=
  if crosses s.trig.edge s.trig.level a then
    let s := { s with run := { s.run with trigIdx := slot, phase := .capture } }
    if s.run.post = 0 then detach s else s
  else s

/-- Phase Capture (R232). -/
def phaseCapture (s : State) : Except Fault State :=
  match decrement s.run.post with
  | .error f => .error f
  | .ok post =>
    let s := { s with run := { s.run with post := post } }
    .ok (if post = 0 then detach s else s)

/-- The phase logic of a triggered tick (R228 to R232). -/
def phaseStep (a slot : Word) (s : State) : Except Fault State :=
  match s.run.phase with
  | .prefill => .ok (phasePrefill s)
  | .armPre => .ok (phaseArmPre a s)
  | .armPost => .ok (phaseArmPost a slot s)
  | .capture => phaseCapture s

/-- `TOCNT <- TOCNT − 1` while it is not 0 (R228). -/
def countTimeout (s : State) : State :=
  if s.trig.tocnt = 0 then s else { s with trig := { s.trig with tocnt := s.trig.tocnt - 1 } }

/-- The timeout fires: the count goes from 1 to 0 in a phase other than Capture (R228). -/
def timesOut (s : State) : Bool := decide (s.trig.tocnt = 1) && decide (s.run.phase ≠ .capture)

/-- `SAMPLES <- (SAMPLES + 1) mod NS` (R228). -/
def countSlot (s : State) : Except Fault State :=
  match narrow 16 ((s.run.samples.toNat + 1) % s.conf.ns.toNat) with
  | .error f => .error f
  | .ok n => .ok { s with run := { s.run with samples := n } }

/-- `K_TRIG` (R228). -/
def tickTrig (s : State) : Except Fault State :=
  match storeInputs s with
  | .error f => .error f
  | .ok ([], _) => .error (.channelRange 1)
  | .ok (a :: _, s) =>
    let slot := s.run.samples
    match countSlot (wrapCursor s) with
    | .error f => .error f
    | .ok s =>
      if timesOut s then .ok (detach (recordTimeout (countTimeout s)))
      else phaseStep a slot (countTimeout s)

/-! ## Step response -/

/-- The step is applied on tick number `STEPIDX`, before that tick's sampling (R236). -/
def applyStep (s : State) : Except Fault State :=
  if s.run.samples = s.run.stepIdx then dacWrite 1 s.run.stepVal s else .ok s

/-- `K_STEP` (R236). -/
def tickStepResponse (s : State) : Except Fault State :=
  match applyStep s with
  | .error f => .error f
  | .ok s =>
    match storeInputs s with
    | .error f => .error f
    | .ok (_, s) => countSample s

/-! ## Wave kernels -/

/-- One output of a wave tick: the table word at an index, to an output (R261, R267). -/
def playWord (d i : Nat) (s : State) : Except Fault State :=
  match memRead i s with
  | .error f => .error f
  | .ok v => dacWrite d v s

/-- The outputs of a wave tick: the primary table to output 1, in a dual kernel the secondary to output 2. -/
def playTables (dual : Bool) (s : State) : Except Fault State :=
  match playWord 1 (primaryWaveIndex s) s with
  | .error f => .error f
  | .ok s => if dual then playWord 2 (secondaryWaveIndex s) s else .ok s

/-- A cursor of a table of `size` words after one more word, and whether it wrapped (R262). -/
def advanceCursor (pos size : Word) : Except Fault (Word × Bool) :=
  match increment pos with
  | .error f => .error f
  | .ok p => .ok (if p = size then (0, true) else (p, false))

/-- `AdvanceWave()` (R262); the answer says whether the primary cursor wrapped. -/
def advanceWave (dual : Bool) (s : State) : Except Fault (Bool × State) :=
  match advanceCursor s.run.wpos s.conf.ws with
  | .error f => .error f
  | .ok (pos, wrapped) =>
    let s := { s with run := { s.run with wpos := pos } }
    if dual then
      match advanceCursor s.run.wpos2 s.conf.ws2 with
      | .error f => .error f
      | .ok (pos2, _) => .ok (wrapped, { s with run := { s.run with wpos2 := pos2 } })
    else .ok (wrapped, s)

/-- The recording part of a wave-response tick (R261). -/
def recordWave (s : State) : Except Fault State :=
  if s.run.wrep = 0 then
    match storeInputs s with
    | .error f => .error f
    | .ok (_, s) => countSample s
  else .ok s

/-- `K_WRESP`, `K_DWRESP`, `K_SWRESP` (R261). -/
def tickWaveResponse (dual : Bool) (s : State) : Except Fault State :=
  match playTables dual s with
  | .error f => .error f
  | .ok s =>
    match recordWave s with
    | .error f => .error f
    | .ok s =>
      match advanceWave dual s with
      | .error f => .error f
      | .ok (wrapped, s) =>
        if wrapped && decide (s.run.wrep ≠ 0) then .ok { s with run := { s.run with wrep := s.run.wrep - 1 } }
        else .ok s

/-- The counting part of a wave-play tick whose primary cursor wrapped (R267). -/
def countCycle (s : State) : Except Fault State :=
  match decrement s.run.wrep with
  | .error f => .error f
  | .ok n =>
    let s := { s with run := { s.run with wrep := n } }
    .ok (if n = 0 then detach s else s)

/-- `K_WPLAY`, `K_DWPLAY` (R267). -/
def tickWavePlay (dual : Bool) (s : State) : Except Fault State :=
  match playTables dual s with
  | .error f => .error f
  | .ok s =>
    match advanceWave dual s with
    | .error f => .error f
    | .ok (wrapped, s) => if wrapped && !s.run.winf then countCycle s else .ok s

/-! ## The tick step -/

/-- The body of a kernel (R190). -/
def kernelBody : Kernel → State → Except Fault State
  | .kAsync => tickAsync
  | .kTrig => tickTrig
  | .kStep => tickStepResponse
  | .kWresp => tickWaveResponse false
  | .kDwresp => tickWaveResponse true
  | .kSwresp => tickWaveResponse false
  | .kWplay => tickWavePlay false
  | .kDwplay => tickWavePlay true

/-- The tick step: prologue (overrun handshake, halt check), then the body of the attached kernel (R190, R193). With
no kernel attached no tick occurs (spec/60_exceptions.md R320). -/
def tickStep (s : State) : Result :=
  match s.active with
  | none => .next s
  | some k =>
    let s := overrunHandshake s
    if s.flags.halt then .next (detach s) else settle (kernelBody k s)

end Sys2Proof.Machine
end

