-- ==== Sys2Proof/Machine/Agents.lean ====
section
/-! DEFINITION. Agents.lean: the steps of the agents (spec/20_memory.md R71) and the order they come in. -/

namespace Sys2Proof.Machine

/-- The command step (M1): the frame at the head of `RX` is accepted and its handler runs; an unrecognised byte is
answered with `NACK`; with an incomplete frame the main agent waits (R71, R131, R313, R335). -/
def commandStep (s : State) : Result :=
  match decode s.cfg.codes s.link.rx with
  | .instr i n => exec i (acceptFrame n s)
  | .unrecognised _ => .next (raiseNack (prologue s))
  | .incomplete => .next s

/-- The main agent's step (M1, M2). -/
def mainStep (s : State) : Result :=
  match s.mpc with
  | .fetch => commandStep s
  | .poll x => pollStep x s

/-- The host appends a byte to `RX` (X). -/
def hostByte (b : Byte) (s : State) : State := { s with link := { s.link with rx := s.link.rx ++ [b] } }

/-- The step of an event (R71). An event whose agent has no enabled step leaves the block as it is;
notes/assumptions/4.md. -/
def eventStep (e : Event) (s : State) : Result :=
  match e with
  | .main => mainStep s
  | .tick => tickStep s
  | .halt => .next (haltStep s)
  | .rx b => .next (hostByte b s)
  | .reset => .next (hardReset s)

/-- The event that comes next: the first scripted one, or a free value (R70, R80; notes/assumptions/3.md). -/
def nextEvent (s : State) : Event := s.agenda.headD (Config.freeEvent s.turn)

/-- One turn is taken: the first scripted event is used up. -/
def takeTurn (s : State) : State := { s with agenda := s.agenda.tail, turn := s.turn + 1 }

/-- One step of the block: the next event's step. -/
def blockStep (s : State) : Result := eventStep (nextEvent s) (takeTurn s)

/-- A frame placed at the head of `RX`, the main agent at `FETCH` and its step the next one. -/
def placeFrame (frame : List Byte) (s : State) : State :=
  { s with
    link := { s.link with rx := frame ++ s.link.rx }
    mpc := .fetch
    agenda := .main :: s.agenda }

end Sys2Proof.Machine
end

