-- ==== Sys2Proof/Machine/Step.lean ====
section
/-! DEFINITION. Step.lean: one step of the machine, and where the next instruction is fetched from. -/

namespace Sys2Proof.Machine

/-- One step: the step of whichever event comes next (spec/20_memory.md R70, R71). -/
def step (s : State) : Host.Outcome State Fault Refusal := blockStep s

/-- The state with a given instruction where `step` fetches its next one: its frame at the head of `RX`, the main
agent at `FETCH`, and the main agent's step next. notes/assumptions/12.md. -/
def State.withFetchWord (s : State) (nbits w : Nat) : State := placeFrame (frameOfWord nbits w) s

end Sys2Proof.Machine
end

