-- ==== Sys2Proof/Safety.lean ====
section
/-! DEFINITION. Safety.lean: what counts as a legal profile, a good state and an execution, in the terms the statements
use: the constraints of spec/00_scope.md R6, the invariants the rules keep (spec/10_state.md R21 to R31,
spec/20_memory.md R66, spec/42_allocator_commands.md R170), executions as sequences of steps (spec/20_memory.md R70),
and the shape of a reply frame (spec/30_encoding.md R92). -/

namespace Sys2Proof

/-- The constraints of R6 on the parameters, and those R24, R125 and R292 need to send the decimals. -/
structure Config.Legal (c : Config) : Prop where
  codes : c.codes.Distinct
  sentinels : [c.ack, c.nack, c.ecrc, c.stOk, c.stOverrun, c.stTimeout, c.stHalted].Nodup
  edges : c.edgeRising ≠ c.edgeFalling
  capacity : c.bsize ≠ 0
  pminPositive : 1 ≤ c.pmin.m
  pminLePmax : Machine.exactLess c.pmax c.pmin = false
  timeoutBound : Machine.exactQuotient 255 c.pmin < 2 ^ 32
  pminSends : c.pmin.encodable = true
  pmaxSends : c.pmax.encodable = true
  inputs : 4 ≤ c.nadc.toNat
  outputs : 2 ≤ c.ndac.toNat
  nch0Low : 1 ≤ c.nch0.toNat
  nch0High : c.nch0.toNat ≤ 4
  ns0 : c.ns0 ≠ 0
  defaultFits : c.nch0.toNat * c.ns0.toNat ≤ c.bsize.toNat
  per0Low : Machine.exactLess c.per0 c.pmin = false
  per0High : Machine.exactLess c.pmax c.per0 = false
  per0Sends : c.per0.encodable = true
  navg0 : c.navg0 ≠ 0
  vddSends : c.platform.vdd.encodable = true
  fmaxSends : c.platform.fmax.encodable = true
  vrefSends : c.platform.vref.encodable = true

namespace Machine

/-! ## Replies -/

/-- The state after a reply frame has been sent: the payload and its XOR appended to `TX` (R92). -/
def reply (payload : List Byte) (s : State) : State :=
  { s with link := { s.link with tx := s.link.tx ++ payload ++ [xorBytes payload], crcTx := 0 } }

/-- The state after the acknowledge reply `RA` (spec/30_encoding.md R94). -/
def ackReply (s : State) : State := reply [s.cfg.ack] s

/-- The state after the refusal reply `RN`, which changes nothing but the link (R94, spec/60_exceptions.md R312). -/
def nackReply (s : State) : State := { reply [s.cfg.nack] s with mpc := .fetch }

/-- The state after the checksum-error reply `RE` (R94, spec/60_exceptions.md R311). -/
def checksumErrorReply (s : State) : State := { reply [s.cfg.ecrc] s with mpc := .fetch }

/-- The bytes of a capture reply before its checksum (R199, spec/30_encoding.md R94). -/
def capturePayload (st : Byte) (start : Nat) (s : State) : List Byte :=
  [st, BitVec.setWidth 8 s.run.nchrun, s.conf.ndig] ++ wordBytes s.conf.ns ++
    (drainIndices s start).flatMap fun i => wordBytes (wordAt s i)

/-- The state a handler of a frame with trailing byte `chk` runs in when its receive-check passes: the trailing byte is
the receive checksum, and the send checksum is the 0 the dispatcher left (R127, R130). -/
def Accepts (chk : Byte) (s : State) : Prop := chk = s.link.crcRx ∧ s.link.crcTx = 0

/-- The state a handler runs in when its receive-check fails (R127, R130). -/
def Rejects (chk : Byte) (s : State) : Prop := chk ≠ s.link.crcRx ∧ s.link.crcTx = 0

/-! ## Runs -/

/-- A run started by command `x`: its run registers, the cleared flags, the kernel attached with the stored period
(spec/43_scheduler_run.md R194). -/
def started (k : Kernel) (x : RunCmd) (run : RunRegs) (s : State) : State :=
  { s with
    run := run
    flags := { s.flags with ovr := false, ovrErr := false, toErr := false, done := false }
    active := some k
    mpc := .poll x
    io := s.io ++ [.timerAttach s.conf.per] }

/-- The answer the environment gives to the `j`-th of the coming `AdcRead`s, made on channel `c`
(spec/60_exceptions.md R330). -/
def nextSample (s : State) (j c : Nat) : Word := s.env.adc.getD j (Config.freeAdc (s.env.calls + j) c)

/-- `mem` is the buffer after one sample frame: the words read, at the indices from the cursor on, every other byte as
before (spec/43_scheduler_run.md R195, spec/20_memory.md R67). -/
def Recorded (s : State) (mem : Memory) : Prop :=
  (∀ j c, (inputChannels s)[j]? = some c →
    wordAt { s with mem := mem } (storeIndex s + j) = nextSample s j c) ∧
  ∀ a, (a < 2 * storeIndex s ∨ 2 * (storeIndex s + s.run.nchrun.toNat) ≤ a) →
    byteAt { s with mem := mem } a = byteAt s a

/-- The state after one sample frame has been stored in `mem`: cursor, environment and requests moved on (R195). -/
def sampled (s : State) (mem : Memory) : State :=
  { s with
    mem := mem
    run := { s.run with cur := BitVec.ofNat 16 (s.run.cur.toNat + s.run.nchrun.toNat) }
    env := { s.env with
      adc := s.env.adc.drop s.run.nchrun.toNat
      calls := s.env.calls + s.run.nchrun.toNat }
    io := s.io ++ (inputChannels s).map .adcRead }

/-- The state after the outputs of one wave tick: the primary table's word on output 1, in a dual kernel the secondary
table's on output 2 (spec/45_wave_kernels.md R261, R267). -/
def played (dual : Bool) (s : State) : State :=
  let first := wordAt s (primaryWaveIndex s)
  let second := wordAt s (secondaryWaveIndex s)
  if dual then { s with dac := (s.dac.set 0 first).set 1 second, io := s.io ++ [.dac 1 first, .dac 2 second] }
  else { s with dac := s.dac.set 0 first, io := s.io ++ [.dac 1 first] }

/-- A cursor in a table of `size` words, one word later (R262). -/
def cyclicNext (pos size : Word) : Word := if pos.toNat + 1 = size.toNat then 0 else pos + 1

/-- The wave cursors one word later (R262). -/
def cursorsAdvanced (dual : Bool) (s : State) : RunRegs :=
  { s.run with
    wpos := cyclicNext s.run.wpos s.conf.ws
    wpos2 := if dual then cyclicNext s.run.wpos2 s.conf.ws2 else s.run.wpos2 }

/-- The primary cursor is at the last word of its table, so that this tick ends a cycle (R262). -/
def endsCycle (s : State) : Bool := decide (s.run.wpos.toNat + 1 = s.conf.ws.toNat)

/-- What a run needs to sample: the channels it reads exist, and its reservation fits (spec/43_scheduler_run.md R194,
spec/20_memory.md R66). -/
def SamplingReady (s : State) : Prop :=
  1 ≤ s.run.nchrun.toNat ∧ s.run.nchrun.toNat ≤ 4 ∧ 1 ≤ s.run.selch.toNat ∧ s.run.selch.toNat ≤ 4 ∧
    4 ≤ s.cfg.nadc.toNat ∧ runWords s + tbase s ≤ s.cfg.bsize.toNat

/-- What a run needs to play: two outputs, the tables inside the buffer (spec/20_memory.md R66). -/
def PlayingReady (s : State) : Prop := 2 ≤ s.cfg.ndac.toNat ∧ tbase s ≤ s.cfg.bsize.toNat

/-! ## The invariant -/

/-- The kernel each run command attaches (spec/43_scheduler_run.md R194). -/
def kernelOf : RunCmd → Kernel
  | .asyncrd => .kAsync
  | .trigrd => .kTrig
  | .steprsp => .kStep
  | .wresp => .kWresp
  | .dwresp => .kDwresp
  | .swresp => .kSwresp
  | .wplay => .kWplay
  | .dwplay => .kDwplay

/-- The command that starts each run (spec/43_scheduler_run.md R194). -/
def commandOf : RunCmd → Cmd
  | .asyncrd => .asyncrd
  | .trigrd => .trigrd
  | .steprsp => .steprsp
  | .wresp => .wresp
  | .dwresp => .dwresp
  | .swresp => .swresp
  | .wplay => .wplay
  | .dwplay => .dwplay

/-- The capture counters of a run in progress: fewer sample frames than `NS`, and the cursor at the current one
(spec/10_state.md R41, R42, spec/44_capture_kernels.md R233). -/
def CaptureReady (s : State) : Prop :=
  s.run.samples.toNat < s.conf.ns.toNat ∧ s.run.cur.toNat = s.run.samples.toNat * s.run.nchrun.toNat

/-- The primary cursor lies in its table (R47). -/
def PrimaryReady (s : State) : Prop := s.run.wpos.toNat < s.conf.ws.toNat

/-- The secondary cursor lies in its table (R47). -/
def SecondaryReady (s : State) : Prop := s.run.wpos2.toNat < s.conf.ws2.toNat

/-- A counted wave play has a cycle left (spec/45_wave_kernels.md R267). -/
def CyclesReady (s : State) : Prop := s.run.winf = false → s.run.wrep ≠ 0

/-- What holds of the run registers while a kernel is attached. -/
def KernelReady : Kernel → State → Prop
  | .kAsync, s => CaptureReady s
  | .kTrig, s => CaptureReady s ∧ (s.run.phase = .capture → s.run.post ≠ 0)
  | .kStep, s => CaptureReady s
  | .kWresp, s => CaptureReady s ∧ PrimaryReady s
  | .kDwresp, s => CaptureReady s ∧ PrimaryReady s ∧ SecondaryReady s
  | .kSwresp, s => CaptureReady s ∧ PrimaryReady s
  | .kWplay, s => PrimaryReady s ∧ CyclesReady s
  | .kDwplay, s => PrimaryReady s ∧ SecondaryReady s ∧ CyclesReady s

/-- The invariants the rules keep. -/
structure State.Inv (s : State) : Prop where
  legal : s.cfg.Legal
  /-- R21 -/
  nchLow : 1 ≤ s.conf.nch.toNat
  nchHigh : s.conf.nch.toNat ≤ 4
  /-- R22 -/
  ndig : s.conf.ndig = 0
  /-- R23 -/
  ns : s.conf.ns ≠ 0
  /-- R25 -/
  navg : s.conf.navg ≠ 0
  /-- R24 -/
  perSends : s.conf.per.encodable = true
  perLegal : s.cfg.arith = .exact → periodLegal s.cfg s.conf.per = true
  /-- R26, invariant I1 of R170 -/
  spans : tbase s ≤ s.cfg.bsize.toNat
  /-- R40 -/
  dacs : s.dac.length = s.cfg.ndac.toNat
  /-- the canonical form of `buff` -/
  memForm : Memory.wf s.mem = true
  memInside : ∀ c ∈ s.mem, c.1 < 2 * s.cfg.bsize.toNat
  /-- R43 -/
  nchrunLow : 1 ≤ s.run.nchrun.toNat
  nchrunHigh : s.run.nchrun.toNat ≤ 4
  selchLow : 1 ≤ s.run.selch.toNat
  selchHigh : s.run.selch.toNat ≤ 4
  /-- R31: outside a run no kernel is attached -/
  idle : s.mpc = .fetch → s.active = none
  /-- R31, R37: in a run the command's kernel is attached, or the run is complete -/
  polling : ∀ x, s.mpc = .poll x →
    (s.active = some (kernelOf x) ∧ s.flags.done = false) ∨ (s.active = none ∧ s.flags.done = true)
  /-- R39, R130: nothing of the reply is sent while a run is in progress -/
  sendIdle : ∀ x, s.mpc = .poll x → s.link.crcTx = 0
  /-- R66, R177: the reservation of a capture run fits -/
  fits : ∀ x, s.mpc = .poll x → playsOnly (kernelOf x) = false → runWords s + tbase s ≤ s.cfg.bsize.toNat
  ready : ∀ k, s.active = some k → KernelReady k s

/-! ## Executions -/

/-- The steps of a list of events, in order, stopping at the first fault or refusal (R70). -/
def runEvents : List Event → State → Result
  | [], s => .next s
  | e :: es, s =>
    match eventStep e s with
    | .next t => runEvents es t
    | .fault f => .fault f
    | .refused r => .refused r

/-- A schedule of polls and ticks only: what a run that no halt and no reset touches is made of, the host sending
nothing. -/
def PollsAndTicks (es : List Event) : Prop := ∀ e ∈ es, e = .main ∨ e = .tick

/-- A tick with no poll since the tick before it (spec/43_scheduler_run.md R200). -/
def MissedPoll (es : List Event) : Prop :=
  ∃ a m b, es = a ++ .tick :: m ++ .tick :: b ∧ .main ∉ m

end Machine

end Sys2Proof
end

