-- ==== Sys2Proof/Certificates/Slice0/Obligations.lean ====
section
/-! DEFINITION. Obligations.lean: the statements for the provers, in the order of OBLIGATIONS.json. Where a statement
gives the whole next state by an equation, every field it does not name is unchanged: that is its frame. Two of the
model's own choices show in such equations and are no rule of the spec: after a reply the send checksum stands at 0
(spec/40_codec_dispatch.md R128 calls its value immaterial; notes/assumptions/14.md), and the requests to the
environment and its answers are recorded in `io` and `env` (notes/assumptions/5.md, notes/assumptions/13.md). -/

open Sys2Proof Sys2Proof.Machine

/-! ## Reset and what every step keeps -/

/-- The invariant holds right after hard reset, in every legal profile, and the two profiles of R6 are legal. Spec's
own decision: D10 of spec/92_eei_decisions.md. Spec's own decision: D10 of spec/92_eei_decisions.md. -/
def Obligations.ResetMeetsInvariant : Prop :=
  State.reset.Inv ∧ Config.small.Legal ∧ ∀ cfg : Config, cfg.Legal → (State.initial cfg).Inv

/-- The table of R56, whatever the state before. That an unwritten byte reads as `Config.unwrittenByte` is how the
model says "any word, but a fixed one" (notes/assumptions/6.md). Spec's own decision: D10 of spec/92_eei_decisions.md.
-/
def Obligations.HardResetRestoresRegisters : Prop :=
  ∀ s : State, ∃ t, eventStep .reset s = .next t ∧
    t.cfg = s.cfg ∧
    t.conf.nch = s.cfg.nch0 ∧ t.conf.ndig = 0 ∧ t.conf.ns = s.cfg.ns0 ∧ t.conf.per = s.cfg.per0 ∧
    t.conf.navg = s.cfg.navg0 ∧ t.conf.ws = 0 ∧ t.conf.ws2 = 0 ∧ tbase t = 0 ∧ tcap t = s.cfg.bsize.toNat ∧
    t.trig.level = 0 ∧ t.trig.edge = .rising ∧ t.trig.tocnt = 0 ∧
    t.mpc = .fetch ∧ t.active = none ∧ t.run.phase = .prefill ∧
    t.flags.ovr = false ∧ t.flags.ovrErr = false ∧ t.flags.toErr = false ∧ t.flags.halt = false ∧
    t.flags.done = false ∧
    t.link.crcRx = 0 ∧ t.link.crcTx = 0 ∧ t.link.rx = [] ∧ t.link.tx = [] ∧
    (∀ d, 1 ≤ d → d ≤ s.cfg.ndac.toNat → dacAt t d = 0) ∧ t.dac.length = s.cfg.ndac.toNat ∧
    t.run.samples = 0 ∧ t.run.cur = 0 ∧ t.run.pre = 0 ∧ t.run.post = 0 ∧ t.run.trigIdx = 0 ∧
    t.run.stepVal = 0 ∧ t.run.stepIdx = 0 ∧ t.run.wpos = 0 ∧ t.run.wpos2 = 0 ∧ t.run.wrep = 0 ∧
    t.run.winf = false ∧ t.run.nchrun = 1 ∧ t.run.selch = 1 ∧
    ∀ a, byteAt t a = Config.unwrittenByte (s.resets + 1) a

/-- Headline: every step keeps the invariant. Spec's own decisions: D14, D17, D18, D30, D31, D43 of
spec/92_eei_decisions.md. -/
def Obligations.StepKeepsInvariant : Prop :=
  ∀ s t : State, s.Inv → step s = .next t → t.Inv

/-- Headline: from a state that meets the invariant no step faults and none is refused (R66, R134, R315). Spec's own
decisions: D17, D18, D31 of spec/92_eei_decisions.md. Spec's own decisions: D17, D18, D31 of spec/92_eei_decisions.md.
-/
def Obligations.NoFaultFromInvariant : Prop :=
  ∀ s : State, s.Inv → ∃ t, step s = .next t

/-- In every state, a step writes no parameter (R20), and keeps the canonical form of the buffer's list of written
bytes. That form is the model's own choice and no rule has it: notes/assumptions/6.md, DESIGN CHOICE. -/
def Obligations.StepKeepsBufferFormAndParameters : Prop :=
  ∀ s t : State, step s = .next t → (Memory.wf s.mem = true → Memory.wf t.mem = true) ∧ t.cfg = s.cfg

/-- The configuration registers change at hard reset and in the command step of one of six commands only (R154).
Spec's own decision: D10 of spec/92_eei_decisions.md. -/
def Obligations.ConfigurationChangesByCommandOnly : Prop :=
  ∀ (e : Event) (s t : State), eventStep e s = .next t → t.conf ≠ s.conf →
    e = .reset ∨ (e = .main ∧ s.mpc = .fetch ∧ ∃ i n, decode s.cfg.codes s.link.rx = .instr i n ∧
      i.cmd ∈ [Cmd.setper, .setsto, .setnavg, .softrst, .loadp, .loads])

/-- During a run no byte is taken from `RX`, no configuration register changes, and no word of a wavetable changes
(R75). -/
def Obligations.RunLeavesOperandsAlone : Prop :=
  ∀ (x : RunCmd) (e : Event) (s t : State), s.mpc = .poll x → e ≠ .reset → eventStep e s = .next t →
    t.conf = s.conf ∧ (∀ a, a < 2 * tbase s → byteAt t a = byteAt s a) ∧
    t.link.rx = (match e with | .rx b => s.link.rx ++ [b] | _ => s.link.rx)

/-- During a run a byte sent by the host changes nothing but `RX`: the step taken with that byte waiting and the step
taken without it differ in that byte only (R75, R361). -/
def Obligations.RunIgnoresHostBytes : Prop :=
  ∀ (x : RunCmd) (b : Byte) (e : Event) (s t : State), s.mpc = .poll x → (e = .main ∨ e = .tick ∨ e = .halt) →
    eventStep e s = .next t → eventStep e (hostByte b s) = .next (hostByte b t)

/-- What the tick agent may write (R38): the flags other than `HALT` only towards 1, `ACTIVE` only to none, `TOCNT`,
the run registers, the transient region and the outputs. -/
def Obligations.TickWritesItsFieldsOnly : Prop :=
  ∀ s t : State, s.active ≠ none → eventStep .tick s = .next t →
    t.cfg = s.cfg ∧ t.conf = s.conf ∧ t.link = s.link ∧ t.mpc = s.mpc ∧
    t.trig.level = s.trig.level ∧ t.trig.edge = s.trig.edge ∧ t.trig.tocnt ≤ s.trig.tocnt ∧
    t.flags.ovr = true ∧ t.flags.ovrErr = (s.flags.ovrErr || s.flags.ovr) ∧ t.flags.halt = s.flags.halt ∧
    (s.flags.toErr = true → t.flags.toErr = true) ∧ (s.flags.done = true → t.flags.done = true) ∧
    ((t.active = s.active ∧ t.flags.done = s.flags.done) ∨ (t.active = none ∧ t.flags.done = true)) ∧
    t.run.nchrun = s.run.nchrun ∧ t.run.selch = s.run.selch ∧ t.run.stepVal = s.run.stepVal ∧
    t.run.stepIdx = s.run.stepIdx ∧ t.run.winf = s.run.winf ∧
    (∀ a, (a < 2 * tbase s ∨ 2 * s.cfg.bsize.toNat ≤ a) → byteAt t a = byteAt s a) ∧
    t.agenda = s.agenda ∧ t.turn = s.turn ∧ t.resets = s.resets

/-- Who writes the flags (R34 to R37). `HALT` is set by a halt edge and cleared by the dispatcher or hard reset;
`OVRERR`, `TOERR` and `DONE` are raised by a tick only, `OVRERR` by one that finds `OVR` set, `TOERR` by the triggered
kernel outside phase Capture, and they fall in a step of the main agent or at reset. Spec's own decisions: D24, D39 of
spec/92_eei_decisions.md. -/
def Obligations.FlagWriters : Prop :=
  ∀ (e : Event) (s t : State), eventStep e s = .next t →
    (t.flags.halt ≠ s.flags.halt →
      (e = .halt ∧ t.flags.halt = true) ∨
      (t.flags.halt = false ∧ (e = .reset ∨ (e = .main ∧ s.mpc = .fetch)))) ∧
    (t.flags.ovrErr ≠ s.flags.ovrErr →
      (e = .tick ∧ s.flags.ovr = true ∧ t.flags.ovrErr = true) ∨
      (t.flags.ovrErr = false ∧ (e = .main ∨ e = .reset))) ∧
    (t.flags.toErr ≠ s.flags.toErr →
      (e = .tick ∧ s.active = some .kTrig ∧ s.run.phase ≠ .capture ∧ s.trig.tocnt = 1 ∧ t.flags.toErr = true ∧
        t.active = none) ∨
      (t.flags.toErr = false ∧ (e = .main ∨ e = .reset))) ∧
    (t.flags.done ≠ s.flags.done →
      (e = .tick ∧ t.flags.done = true ∧ t.active = none) ∨
      (t.flags.done = false ∧ (e = .main ∨ e = .reset)))

/-- How the main agent's sequencer moves (R30): to `POLL(x)` by the command step of `x`, the command decoded at the
head of `RX`, which attaches the kernel of `x`; back to `FETCH` by the poll step that sees `DONE`, or by reset. -/
def Obligations.SequencerMoves : Prop :=
  ∀ (e : Event) (s t : State), eventStep e s = .next t → t.mpc ≠ s.mpc →
    (e = .main ∧ s.mpc = .fetch ∧ ∃ x i n, decode s.cfg.codes s.link.rx = .instr i n ∧ i.cmd = commandOf x ∧
      t.mpc = .poll x ∧ t.active = some (kernelOf x)) ∨
    (e = .main ∧ (∃ x, s.mpc = .poll x) ∧ s.flags.done = true ∧ t.mpc = .fetch) ∨
    (e = .reset ∧ t.mpc = .fetch)

/-! ## Frames -/

/-- Headline: decoding an encoded well-formed instruction gives it back, whatever follows it on the link, and its
frame is exactly as long as its encoding. Spec's own decisions: D6, D11 of spec/92_eei_decisions.md. -/
def Obligations.DecodeOfEncode : Prop :=
  ∀ (k : Codes) (i : Instr) (rest : List Byte), k.Distinct → i.wf = true →
    decode k (encode k i ++ rest) = .instr i (encode k i).length

/-- Every frame the decoder accepts is the encoding of the instruction it reads: no bit of it is dropped. Spec's own
decisions: D6, D11 of spec/92_eei_decisions.md. Spec's own decisions: D6, D11 of spec/92_eei_decisions.md. -/
def Obligations.EncodeOfDecode : Prop :=
  ∀ (k : Codes) (rx : List Byte) (i : Instr) (n : Nat), decode k rx = .instr i n →
    i.wf = true ∧ n ≤ rx.length ∧ rx.take n = encode k i

/-- A stream is incomplete exactly as long as it holds fewer bytes than `FrameLen` asks for (R103): no frame is
rejected for its contents. -/
def Obligations.IncompleteMeansTooShort : Prop :=
  ∀ (k : Codes) (rx : List Byte),
    decode k rx = .incomplete ↔ frameLen k rx = none ∨ ∃ n, frameLen k rx = some n ∧ rx.length < n

/-- A byte that is none of the 23 codes is consumed alone and answered with `NACK NACK` (R98, R313). Spec's own
decisions: D12, D34 of spec/92_eei_decisions.md. Spec's own decisions: D12, D34 of spec/92_eei_decisions.md. -/
def Obligations.UnrecognisedByteAnswersNack : Prop :=
  ∀ (s : State) (b : Byte) (rest : List Byte), s.mpc = .fetch → s.link.rx = b :: rest →
    (∀ c, s.cfg.codes.of c ≠ b) →
    eventStep .main s = .next { s with
      link := { rx := rest, tx := s.link.tx ++ [s.cfg.nack, s.cfg.nack], crcRx := b, crcTx := 0 }
      flags := { s.flags with halt := false } }

/-- A few frames written out from the tables of R93 and R96 decode to the instruction they stand for. Spec's own
decisions: D2, D6, D36 of spec/92_eei_decisions.md. Spec's own decisions: D2, D6, D36 of spec/92_eei_decisions.md. -/
def Obligations.TableFramesDecode : Prop :=
  decode Codes.reference [0x52, 0x7D, 0x21, 0x4E, 0x40] = .instr (.setper ⟨1, -3⟩ 0x40) 5 ∧
  decode Codes.reference [0x53, 0x01, 0x00, 0x05, 0x00, 0x57] = .instr (.setsto 1 0 5 0x57) 6 ∧
  decode Codes.reference [0x59, 0x59] = .instr (.asyncrd 0x59) 2 ∧
  decode Codes.reference [0x47, 0x00, 0x80, 0x00, 0x00, 0xC7] = .instr (.trigrd 0x8000 0 0 0xC7) 6 ∧
  decode Codes.reference [0x57, 0x04, 0x00, 0x00, 0x00, 0x00, 0x40, 0x00, 0x80, 0x00, 0xC0, 0x53] =
    .instr (.loadp [0, 16384, 32768, 49152] 0x53) 12 ∧
  decode Codes.reference [0x58, 0x03, 0x00, 0x00, 0x5B] = .instr (.swresp 3 0 0x5B) 5 ∧
  decode Codes.reference [0x48, 0x01, 0x03, 0x4A] = .instr (.diomode 1 3 0x4A) 4

/-- A valid frame with one byte changed, still delimited with the same length, is answered with `RE` (R106). The
configuration, the buffer and the rest of the block are kept, but where the changed frame reads as a load of an
acceptable size: that one has stored its words, from index 0 or from index `WS` on, and clears its own span (R176).
Spec's own decision: D16 of spec/92_eei_decisions.md. -/
def Obligations.CorruptedByteIsDetected : Prop :=
  ∀ (s : State) (i j : Instr) (rest : List Byte) (p : Nat) (b : Byte),
    s.mpc = .fetch → i.chk = checksum s.cfg.codes i →
    p < (encode s.cfg.codes i).length → (encode s.cfg.codes i)[p]? ≠ some b →
    s.link.rx = (encode s.cfg.codes i).set p b ++ rest →
    decode s.cfg.codes s.link.rx = .instr j (encode s.cfg.codes i).length →
    ∃ t, eventStep .main s = .next t ∧ t.mpc = .fetch ∧ t.link.rx = rest ∧
      t.link.tx = s.link.tx ++ [s.cfg.ecrc, s.cfg.ecrc] ∧
      t.cfg = s.cfg ∧ t.run = s.run ∧ t.trig = s.trig ∧ t.active = s.active ∧ t.dac = s.dac ∧ t.io = s.io ∧
      t.env = s.env ∧ t.agenda = s.agenda ∧ t.turn = s.turn ∧ t.resets = s.resets ∧
      t.flags = { s.flags with halt := false } ∧
      match j with
      | .loadp data _ =>
        if data.length ≤ s.cfg.bsize.toNat then
          t.conf = { s.conf with ws := 0 } ∧ (∀ n v, data[n]? = some v → wordAt t n = v) ∧
            ∀ a, 2 * data.length ≤ a → byteAt t a = byteAt s a
        else t.conf = s.conf ∧ t.mem = s.mem
      | .loads data _ =>
        if data.length + s.conf.ws.toNat ≤ s.cfg.bsize.toNat then
          t.conf = { s.conf with ws2 := 0 } ∧ (∀ n v, data[n]? = some v → wordAt t (s.conf.ws.toNat + n) = v) ∧
            ∀ a, (a < 2 * s.conf.ws.toNat ∨ 2 * (s.conf.ws.toNat + data.length) ≤ a) → byteAt t a = byteAt s a
        else t.conf = s.conf ∧ t.mem = s.mem
      | _ => t.conf = s.conf ∧ t.mem = s.mem

/-- When the frame at the head of `RX` decodes to an instruction, a step of the main agent runs it, from the state the
dispatcher leaves: the frame taken from `RX`, `CRCRX` the XOR of all its bytes but the last, `CRCTX` and `HALT`
cleared (R120, R127, R130, R131), and one turn of the schedule taken (notes/assumptions/3.md). Spec's own decision:
D34 of spec/92_eei_decisions.md. -/
def Obligations.StepRunsDecodedInstruction : Prop :=
  ∀ (s : State) (i : Instr) (n : Nat),
    nextEvent s = .main → s.mpc = .fetch → decode s.cfg.codes s.link.rx = .instr i n →
    step s = exec i { s with
      agenda := s.agenda.tail
      turn := s.turn + 1
      link := { s.link with rx := s.link.rx.drop n, crcRx := xorBytes (s.link.rx.take (n - 1)), crcTx := 0 }
      flags := { s.flags with halt := false } }

/-! ## Operations -/

/-- A halt step sets `HALT`, changes nothing else, and is idempotent (R321). -/
def Obligations.HaltStepSetsHaltOnly : Prop :=
  ∀ s : State, eventStep .halt s = .next { s with flags := { s.flags with halt := true } } ∧
    haltStep (haltStep s) = haltStep s

/-- A word is sent low byte first, and both bytes enter the send checksum; reading the two bytes back gives the word,
of value low + 256 · high (R121, R122, R123). -/
def Obligations.WordsAreLittleEndian : Prop :=
  ∀ (w : Word) (s : State),
    putU16 w s = { s with link := { s.link with
      tx := s.link.tx ++ [w.extractLsb' 0 8, w.extractLsb' 8 8]
      crcTx := s.link.crcTx ^^^ w.extractLsb' 0 8 ^^^ w.extractLsb' 8 8 } } ∧
    u16 (w.extractLsb' 0 8) (w.extractLsb' 8 8) = w ∧
    ∀ lo hi : Byte, (u16 lo hi).toNat = lo.toNat + 256 * hi.toNat

/-- The comparison and the quotient of R135 are those of the exact rational value m · 10^e. Spec's own decision: D7 of
spec/92_eei_decisions.md. -/
def Obligations.DecimalArithmeticIsExact : Prop :=
  (∀ a b : Dec, exactLess a b = true ↔ (a.m : ℚ) * (10 : ℚ) ^ a.e < (b.m : ℚ) * (10 : ℚ) ^ b.e) ∧
  ∀ (s : Nat) (d : Dec), 1 ≤ d.m → (exactQuotient s d : ℤ) = ⌊(s : ℚ) / ((d.m : ℚ) * (10 : ℚ) ^ d.e)⌋

/-- The timeout count is R226's: the exact quotient of seconds and period rounded down, but 1 where that is 0 and
`TIMEOUT_ZERO` is `immediate`. In a legal profile with exact arithmetic a legal period is positive and its timeout
counts fit the 32 bits of `TOCNT` (R24, R28, R226). Spec's own decisions: D7, D26 of spec/92_eei_decisions.md. -/
def Obligations.LegalPeriodBounds : Prop :=
  ∀ (cfg : Config) (p : Dec) (seconds : Byte), cfg.arith = .exact →
    (1 ≤ p.m →
      let quotient := ⌊(seconds.toNat : ℚ) / ((p.m : ℚ) * (10 : ℚ) ^ p.e)⌋
      (timeoutTicks cfg seconds p : ℤ) = if quotient = 0 ∧ cfg.timeoutZero = .immediate then 1 else quotient) ∧
    (cfg.Legal → periodLegal cfg p = true → 1 ≤ p.m ∧ timeoutTicks cfg seconds p < 2 ^ 32)

/-- A buffer write of a word below BSIZE changes that word and no other byte, and the word reads back (R60). That an
index from BSIZE on answers a fault is the model's own and no behaviour of the block, which reaches none (R315):
notes/assumptions/8.md, DEDUCED. -/
def Obligations.BufferReadAfterWrite : Prop :=
  ∀ (i : Nat) (v : Word) (s : State),
    (i < s.cfg.bsize.toNat → ∃ t, memWrite i v s = .ok t ∧ memRead i t = .ok v ∧ t = { s with mem := t.mem } ∧
      ∀ a, a ≠ 2 * i → a ≠ 2 * i + 1 → byteAt t a = byteAt s a) ∧
    (s.cfg.bsize.toNat ≤ i → memWrite i v s = .error (.bufferRange i) ∧ memRead i s = .error (.bufferRange i))

/-- The status code: halted before timeout before overrun before OK (R198). Spec's own decision: D27 of
spec/92_eei_decisions.md. -/
def Obligations.StatusPriority : Prop :=
  ∀ s : State,
    (s.flags.halt = true → status s = s.cfg.stHalted) ∧
    (s.flags.halt = false → s.flags.toErr = true → status s = s.cfg.stTimeout) ∧
    (s.flags.halt = false → s.flags.toErr = false → s.flags.ovrErr = true → status s = s.cfg.stOverrun) ∧
    (s.flags.halt = false → s.flags.toErr = false → s.flags.ovrErr = false → status s = s.cfg.stOk)

/-! ## Commands -/

/-- FWSTR, PINS and MAGICQ reply their bytes and change nothing but the link; CAPS replies the 23 bytes of R292, of
which the last is the platform's answer (R290 to R293). Spec's own decisions: D5, D41 of spec/92_eei_decisions.md. -/
def Obligations.QueriesReply : Prop :=
  ∀ (s : State) (chk : Byte), Accepts chk s →
    exec (.fwstr chk) s = .next (reply s.cfg.platform.fwString s) ∧
    exec (.pins chk) s = .next (reply s.cfg.platform.pinList s) ∧
    exec (.magicq chk) s = .next (reply [s.cfg.magic0, s.cfg.magic1, s.cfg.magic2, s.cfg.magic3] s) ∧
    exec (.caps chk) s = .next
      { reply ([s.cfg.ndac, s.cfg.nadc] ++ wordBytes s.cfg.bsize ++ decBytes s.cfg.pmax ++ decBytes s.cfg.pmin ++
          decBytes s.cfg.platform.vdd ++ decBytes s.cfg.platform.fmax ++ decBytes s.cfg.platform.vref ++
          [s.cfg.platform.dacBits, s.cfg.platform.adcBits, s.cfg.platform.ndio,
            s.env.flag.headD (Config.freeFlag s.env.calls)]) s with
        io := s.io ++ [.resetFlag]
        env := { s.env with flag := s.env.flag.tail, calls := s.env.calls + 1 } }

/-- ANARD on a channel from 1 to NADC replies the platform's word; on any other channel it replies `RN` (R294). Spec's
own decision: D38 of spec/92_eei_decisions.md. Spec's own decision: D38 of spec/92_eei_decisions.md. -/
def Obligations.AnalogReadReplies : Prop :=
  ∀ (s : State) (chk channel : Byte), Accepts chk s →
    (1 ≤ channel.toNat → channel.toNat ≤ s.cfg.nadc.toNat →
      exec (.anard channel chk) s = .next
        { reply (wordBytes (s.env.analog.headD (Config.freeAnalog s.env.calls channel s.conf.navg))) s with
          io := s.io ++ [.analogRead channel s.conf.navg]
          env := { s.env with analog := s.env.analog.tail, calls := s.env.calls + 1 } }) ∧
    (channel = 0 ∨ s.cfg.nadc < channel → exec (.anard channel chk) s = .next (nackReply s))

/-- ANAWR on a channel from 1 to NDAC writes that output and acknowledges; on any other channel it replies `RN` (R295,
R331). Spec's own decision: D38 of spec/92_eei_decisions.md. -/
def Obligations.AnalogWriteSetsOutput : Prop :=
  ∀ (s : State) (chk channel : Byte) (v : Word), Accepts chk s →
    (1 ≤ channel.toNat → channel.toNat ≤ s.cfg.ndac.toNat →
      exec (.anawr channel v chk) s = .next
        { ackReply s with dac := s.dac.set (channel.toNat - 1) v, io := s.io ++ [.dac channel.toNat v] }) ∧
    (channel = 0 ∨ s.cfg.ndac < channel → exec (.anawr channel v chk) s = .next (nackReply s))

/-- DIOMODE, DIOWR and DIORD pass their operands to the platform and reply as R296 to R298 say; DIOWR and DIORD refuse
a line outside 1 to ndio. Spec's own decision: D38 of spec/92_eei_decisions.md. -/
def Obligations.DigitalLinesReply : Prop :=
  ∀ (s : State) (chk line v : Byte), Accepts chk s →
    exec (.diomode line v chk) s = .next
      { (if s.env.mode.headD (Config.freeMode s.env.calls line v) then ackReply s else nackReply s) with
        io := s.io ++ [.digitalMode line v]
        env := { s.env with mode := s.env.mode.tail, calls := s.env.calls + 1 } } ∧
    (1 ≤ line.toNat → line.toNat ≤ s.cfg.platform.ndio.toNat →
      exec (.diowr line v chk) s = .next { ackReply s with io := s.io ++ [.digitalWrite line v] } ∧
      exec (.diord line chk) s = .next
        { reply [s.cfg.ack, s.env.digital.headD (Config.freeDigital s.env.calls line)] s with
          io := s.io ++ [.digitalRead line]
          env := { s.env with digital := s.env.digital.tail, calls := s.env.calls + 1 } }) ∧
    (line = 0 ∨ s.cfg.platform.ndio < line →
      exec (.diowr line v chk) s = .next (nackReply s) ∧ exec (.diord line chk) s = .next (nackReply s))

/-- SETPER stores the pair as received when its exact value lies in [PMIN, PMAX] and acknowledges; otherwise it
replies `RN` (R150, R135). Spec's own decisions: D7, D8 of spec/92_eei_decisions.md. -/
def Obligations.SetPeriodStoresLegalPair : Prop :=
  ∀ (s : State) (chk : Byte) (p : Dec), Accepts chk s → s.cfg.arith = .exact →
    let value := fun d : Dec => (d.m : ℚ) * (10 : ℚ) ^ d.e
    (value s.cfg.pmin ≤ value p → value p ≤ value s.cfg.pmax →
      exec (.setper p chk) s = .next { ackReply s with conf := { s.conf with per := p } }) ∧
    (value p < value s.cfg.pmin ∨ value s.cfg.pmax < value p →
      exec (.setper p chk) s = .next (nackReply s))

/-- SETSTO stores a legal request that fits and acknowledges; otherwise it replies `RN` and stores nothing (R151).
Spec's own decision: D14 of spec/92_eei_decisions.md. -/
def Obligations.SetStorageStoresFeasibleRequest : Prop :=
  ∀ (s : State) (chk nch ndig : Byte) (ns : Word), Accepts chk s → tbase s ≤ s.cfg.bsize.toNat →
    (1 ≤ nch.toNat → nch.toNat ≤ 4 → ndig = 0 → ns ≠ 0 → nch.toNat * ns.toNat ≤ tcap s →
      exec (.setsto nch ndig ns chk) s = .next { ackReply s with
        conf := { s.conf with nch := BitVec.ofNat 3 nch.toNat, ndig := 0, ns := ns } }) ∧
    (nch = 0 ∨ 4 < nch.toNat ∨ ndig ≠ 0 ∨ ns = 0 ∨ tcap s < nch.toNat * ns.toNat →
      exec (.setsto nch ndig ns chk) s = .next (nackReply s))

/-- SETNAVG stores its operand, 0 as 1, and acknowledges (R152). -/
def Obligations.SetAveragingClampsZero : Prop :=
  ∀ (s : State) (chk : Byte) (n : Word), Accepts chk s →
    (n ≠ 0 → exec (.setnavg n chk) s = .next { ackReply s with conf := { s.conf with navg := n } }) ∧
    exec (.setnavg 0 chk) s = .next { ackReply s with conf := { s.conf with navg := 1 } }

/-- SOFTRST restores the seven configuration registers and writes 0 to every output, in ascending order; the buffer
and everything else keeps its value (R153, R57). Spec's own decisions: D10, D35 of spec/92_eei_decisions.md. -/
def Obligations.SoftResetRestoresConfiguration : Prop :=
  ∀ (s : State) (chk : Byte), Accepts chk s → s.dac.length = s.cfg.ndac.toNat →
    exec (.softrst chk) s = .next { ackReply s with
      conf := {
        nch := s.cfg.nch0, ndig := 0, ns := s.cfg.ns0, per := s.cfg.per0, navg := s.cfg.navg0, ws := 0, ws2 := 0 }
      dac := List.replicate s.cfg.ndac.toNat 0
      io := s.io ++ (List.range s.cfg.ndac.toNat).map (fun d => .dac (d + 1) 0) ++ [.softReset] }

/-- LOADP of a size up to BSIZE stores the words from index 0, sets `WS`, keeps `WS2` where both spans still fit and
clears it where they do not, and acknowledges (R171, R172). Spec's own decisions: D16, D17 of
spec/92_eei_decisions.md. -/
def Obligations.LoadPrimaryStoresTable : Prop :=
  ∀ (s : State) (chk : Byte) (data : List Word), Accepts chk s → data.length ≤ s.cfg.bsize.toNat →
    ∃ mem, exec (.loadp data chk) s = .next { ackReply s with
        mem := mem
        conf := { s.conf with
          ws := BitVec.ofNat 16 data.length
          ws2 := if data.length + s.conf.ws2.toNat ≤ s.cfg.bsize.toNat then s.conf.ws2 else 0 } } ∧
      (∀ j v, data[j]? = some v → wordAt { s with mem := mem } j = v) ∧
      ∀ a, 2 * data.length ≤ a → byteAt { s with mem := mem } a = byteAt s a

/-- LOADS of a size up to BSIZE − WS stores the words from index `WS`, sets `WS2` and acknowledges (R173). Spec's own
decision: D16 of spec/92_eei_decisions.md. Spec's own decision: D16 of spec/92_eei_decisions.md. -/
def Obligations.LoadSecondaryStoresTable : Prop :=
  ∀ (s : State) (chk : Byte) (data : List Word), Accepts chk s →
    data.length + s.conf.ws.toNat ≤ s.cfg.bsize.toNat →
    ∃ mem, exec (.loads data chk) s = .next { ackReply s with
        mem := mem
        conf := { s.conf with ws2 := BitVec.ofNat 16 data.length } } ∧
      (∀ j v, data[j]? = some v → wordAt { s with mem := mem } (s.conf.ws.toNat + j) = v) ∧
      ∀ a, (a < 2 * s.conf.ws.toNat ∨ 2 * (s.conf.ws.toNat + data.length) ≤ a) →
        byteAt { s with mem := mem } a = byteAt s a

/-- A load that is too large stores nothing, clears its own span only, and replies `RN`; with a failed receive-check
as well it changes nothing but the link (R171, R173, R176). Spec's own decision: D15 of spec/92_eei_decisions.md. -/
def Obligations.OversizeLoadsAreRefused : Prop :=
  ∀ (s : State) (chk : Byte) (data : List Word),
    (s.cfg.bsize.toNat < data.length →
      (Accepts chk s → exec (.loadp data chk) s = .next { nackReply s with conf := { s.conf with ws := 0 } }) ∧
      (Rejects chk s → exec (.loadp data chk) s = .next (checksumErrorReply s))) ∧
    (s.cfg.bsize.toNat < data.length + s.conf.ws.toNat →
      (Accepts chk s → exec (.loads data chk) s = .next { nackReply s with conf := { s.conf with ws2 := 0 } }) ∧
      (Rejects chk s → exec (.loads data chk) s = .next (checksumErrorReply s)))

/-- A load of an acceptable size whose receive-check fails has stored its words, clears its own span only, and replies
`RE` (R176). Spec's own decision: D16 of spec/92_eei_decisions.md. -/
def Obligations.CorruptedLoadsClearTheirSpan : Prop :=
  ∀ (s : State) (chk : Byte) (data : List Word), Rejects chk s →
    (data.length ≤ s.cfg.bsize.toNat →
      ∃ mem, exec (.loadp data chk) s = .next
          { checksumErrorReply s with mem := mem, conf := { s.conf with ws := 0 } } ∧
        (∀ j v, data[j]? = some v → wordAt { s with mem := mem } j = v) ∧
        ∀ a, 2 * data.length ≤ a → byteAt { s with mem := mem } a = byteAt s a) ∧
    (data.length + s.conf.ws.toNat ≤ s.cfg.bsize.toNat →
      ∃ mem, exec (.loads data chk) s = .next
          { checksumErrorReply s with mem := mem, conf := { s.conf with ws2 := 0 } } ∧
        (∀ j v, data[j]? = some v → wordAt { s with mem := mem } (s.conf.ws.toNat + j) = v) ∧
        ∀ a, (a < 2 * s.conf.ws.toNat ∨ 2 * (s.conf.ws.toNat + data.length) ≤ a) →
          byteAt { s with mem := mem } a = byteAt s a)

/-- A failed receive-check in any command but a load replies `RE` and changes nothing but the link (R311, R127).
Spec's own decision: D13 of spec/92_eei_decisions.md. -/
def Obligations.ChecksumErrorChangesNothing : Prop :=
  ∀ (s : State) (i : Instr), Rejects i.chk s → i.cmd ≠ .loadp → i.cmd ≠ .loads →
    exec i s = .next (checksumErrorReply s)

/-- ASYNCRD, STEPRSP and TRIGRD with one of the two edge codes start their run when the stored reservation fits: the
registers of R194's table are written, the kernel is attached with the stored period, the edge mode is the one of the
code received, nothing is sent (R220, R225 to R227, R235). Spec's own decisions: D18, D22, D23, D26, D29 of
spec/92_eei_decisions.md. -/
def Obligations.CaptureCommandsStartRuns : Prop :=
  ∀ (s : State) (chk : Byte), Accepts chk s → s.conf.nch.toNat * s.conf.ns.toNat + tbase s ≤ s.cfg.bsize.toNat →
    let run := { s.run with nchrun := s.conf.nch, samples := 0, cur := 0 }
    exec (.asyncrd chk) s = .next (started .kAsync .asyncrd run s) ∧
    (∀ v, exec (.steprsp v chk) s = .next (started .kStep .steprsp
      { run with stepVal := v, stepIdx := BitVec.ofNat 16 (s.conf.ns.toNat / 5) } s)) ∧
    ∀ level edge seconds e,
      (edge = s.cfg.edgeRising ∧ e = .rising ∨ edge ≠ s.cfg.edgeRising ∧ edge = s.cfg.edgeFalling ∧ e = .falling) →
      timeoutTicks s.cfg seconds s.conf.per < 2 ^ 32 →
      exec (.trigrd level edge seconds chk) s = .next
        { started .kTrig .trigrd { run with
            pre := BitVec.ofNat 16 (s.conf.ns.toNat / 2)
            post := BitVec.ofNat 16 (s.conf.ns.toNat - s.conf.ns.toNat / 2 - 1)
            trigIdx := 0
            phase := .prefill } s with
          trig := {
            level := level
            edge := e
            tocnt := BitVec.ofNat 32 (timeoutTicks s.cfg seconds s.conf.per) } }

/-- WRESP, DWRESP and SWRESP start their run when the tables they play are not empty and the reservation fits (R264 to
R266); SWRESP's has one channel. Spec's own decisions: D18, D30, D31, D32 of spec/92_eei_decisions.md. -/
def Obligations.WaveResponseCommandsStartRuns : Prop :=
  ∀ (s : State) (chk : Byte) (count : Word), Accepts chk s → s.conf.ws ≠ 0 →
    let run := { s.run with samples := 0, cur := 0, wpos := 0, wrep := count }
    (s.conf.nch.toNat * s.conf.ns.toNat + tbase s ≤ s.cfg.bsize.toNat →
      exec (.wresp count chk) s = .next (started .kWresp .wresp { run with nchrun := s.conf.nch } s) ∧
      (s.conf.ws2 ≠ 0 → exec (.dwresp count chk) s = .next
        (started .kDwresp .dwresp { run with nchrun := s.conf.nch, wpos2 := 0 } s))) ∧
    ∀ channel : Byte, 1 ≤ channel.toNat → channel.toNat ≤ 4 →
      s.conf.ns.toNat + tbase s ≤ s.cfg.bsize.toNat →
      exec (.swresp channel count chk) s = .next (started .kSwresp .swresp
        { run with nchrun := 1, selch := BitVec.ofNat 3 channel.toNat } s)

/-- WPLAY and DWPLAY start their run when the tables they play are not empty, whatever the reservation (R268, R269).
That `NCHRUN` keeps its value is the model's choice, notes/assumptions/15.md. Spec's own decisions: D30, D31 of
spec/92_eei_decisions.md. -/
def Obligations.WavePlayCommandsStartRuns : Prop :=
  ∀ (s : State) (chk : Byte) (count : Word), Accepts chk s → s.conf.ws ≠ 0 →
    let run := { s.run with samples := 0, cur := 0, wpos := 0, wrep := count, winf := decide (count = 0) }
    exec (.wplay count chk) s = .next (started .kWplay .wplay run s) ∧
    (s.conf.ws2 ≠ 0 → exec (.dwplay count chk) s = .next (started .kDwplay .dwplay { run with wpos2 := 0 } s))

/-- When the eight run commands reply `RN` and start nothing: an empty table, an illegal edge code, an illegal
channel, a reservation that does not fit (R312). Spec's own decisions: D18, D22, D31, D32 of spec/92_eei_decisions.md.
-/
def Obligations.RunCommandsRefuse : Prop :=
  ∀ (s : State) (chk : Byte), Accepts chk s →
    (s.cfg.bsize.toNat < s.conf.nch.toNat * s.conf.ns.toNat + tbase s →
      exec (.asyncrd chk) s = .next (nackReply s) ∧
      (∀ v, exec (.steprsp v chk) s = .next (nackReply s)) ∧
      (∀ level edge seconds, exec (.trigrd level edge seconds chk) s = .next (nackReply s)) ∧
      (∀ n, exec (.wresp n chk) s = .next (nackReply s)) ∧ (∀ n, exec (.dwresp n chk) s = .next (nackReply s))) ∧
    (∀ level edge seconds, edge ≠ s.cfg.edgeRising → edge ≠ s.cfg.edgeFalling →
      exec (.trigrd level edge seconds chk) s = .next (nackReply s)) ∧
    (∀ channel n, channel = 0 ∨ 4 < channel.toNat ∨ s.cfg.bsize.toNat < s.conf.ns.toNat + tbase s →
      exec (.swresp channel n chk) s = .next (nackReply s)) ∧
    (s.conf.ws = 0 →
      (∀ n, exec (.wresp n chk) s = .next (nackReply s)) ∧ (∀ n, exec (.dwresp n chk) s = .next (nackReply s)) ∧
      (∀ channel n, exec (.swresp channel n chk) s = .next (nackReply s)) ∧
      (∀ n, exec (.wplay n chk) s = .next (nackReply s)) ∧ (∀ n, exec (.dwplay n chk) s = .next (nackReply s))) ∧
    (s.conf.ws2 = 0 →
      (∀ n, exec (.dwresp n chk) s = .next (nackReply s)) ∧ (∀ n, exec (.dwplay n chk) s = .next (nackReply s)))

/-- Right after a reset of the configuration, ASYNCRD, STEPRSP and TRIGRD with either edge code start a run with
`NCH0` channels, `NS0` samples and period `PER0`, and every wave command replies `RN` (R354), whichever arithmetic the
profile has (notes/assumptions/10.md). Spec's own decision: D10 of spec/92_eei_decisions.md. -/
def Obligations.DefaultsAreRunnable : Prop :=
  ∀ (s : State) (chk : Byte), s.cfg.Legal → s.conf = ConfigRegs.initial s.cfg → Accepts chk s →
    let runs := fun (k : Kernel) (t : State) => t.active = some k ∧ t.run.nchrun = s.cfg.nch0 ∧
      t.conf.ns = s.cfg.ns0 ∧ t.conf.per = s.cfg.per0 ∧ t.io = s.io ++ [.timerAttach s.cfg.per0]
    (∃ t, exec (.asyncrd chk) s = .next t ∧ runs .kAsync t) ∧
    (∀ v, ∃ t, exec (.steprsp v chk) s = .next t ∧ runs .kStep t) ∧
    (∀ level seconds,
      (∃ t, exec (.trigrd level s.cfg.edgeRising seconds chk) s = .next t ∧ runs .kTrig t ∧ t.trig.edge = .rising) ∧
      ∃ t, exec (.trigrd level s.cfg.edgeFalling seconds chk) s = .next t ∧ runs .kTrig t ∧
        t.trig.edge = .falling) ∧
    (∀ i, i.chk = chk → i.cmd ∈ [Cmd.wresp, .dwresp, .swresp, .wplay, .dwplay] → exec i s = .next (nackReply s))

/-- After an accepted SETSTO the tables and the stored reservation fit together, and so they do whenever a command
step attaches a capture kernel (R177). Spec's own decisions: D14, D18 of spec/92_eei_decisions.md. -/
def Obligations.ReservationsFit : Prop :=
  ∀ s t : State, s.Inv → s.mpc = .fetch → eventStep .main s = .next t →
    (∀ nch ndig ns chk n, decode s.cfg.codes s.link.rx = .instr (.setsto nch ndig ns chk) n →
      t.link.tx = s.link.tx ++ [s.cfg.ack, s.cfg.ack] →
      t.conf.ws.toNat + t.conf.ws2.toNat + t.conf.nch.toNat * t.conf.ns.toNat ≤ t.cfg.bsize.toNat) ∧
    (∀ k, t.active = some k → playsOnly k = false →
      t.conf.ws.toNat + t.conf.ws2.toNat + t.run.nchrun.toNat * t.conf.ns.toNat ≤ t.cfg.bsize.toNat)

/-! ## Ticks and polls -/

/-- The tick prologue (R193): the overrun handshake, then the halt check; a halting tick detaches and does nothing
else, any other runs the body of the attached kernel. Spec's own decision: D20 of spec/92_eei_decisions.md. -/
def Obligations.TickPrologue : Prop :=
  ∀ (s : State) (k : Kernel), s.active = some k →
    let flags := { s.flags with ovr := true, ovrErr := s.flags.ovrErr || s.flags.ovr }
    (s.flags.halt = true → eventStep .tick s = .next { s with
      flags := { flags with done := true }, active := none, io := s.io ++ [.timerDetach] }) ∧
    (s.flags.halt = false → eventStep .tick s = settle (kernelBody k { s with flags := flags }))

/-- `StoreInputs` (R195): a run of the single-channel wave response reads `SELCH`, any other the channels 1 to
`NCHRUN` in order, one answer each; the words read are stored from the cursor on, and everything else is kept. Spec's
own decision: D19 of spec/92_eei_decisions.md. Spec's own decision: D19 of spec/92_eei_decisions.md. -/
def Obligations.StoreInputsRecordsFrame : Prop :=
  ∀ s : State,
    inputChannels s = (if s.active = some .kSwresp then List.replicate s.run.nchrun.toNat s.run.selch.toNat
      else List.range' 1 s.run.nchrun.toNat) ∧
    ((∀ c ∈ inputChannels s, 1 ≤ c ∧ c ≤ s.cfg.nadc.toNat) →
      storeIndex s + s.run.nchrun.toNat ≤ s.cfg.bsize.toNat →
      ∃ vs mem, storeInputs s = .ok (vs, sampled s mem) ∧ Recorded s mem ∧ vs.length = s.run.nchrun.toNat ∧
        ∀ j c, (inputChannels s)[j]? = some c → vs[j]? = some (nextSample s j c))

/-- A tick of the free-run sampler (R221): one sample frame stored, the sample counted; the last one wraps the cursor
and detaches. Spec's own decisions: D19, D20 of spec/92_eei_decisions.md. -/
def Obligations.AsyncTickStoresFrame : Prop :=
  ∀ s : State, s.active = some .kAsync → s.flags.halt = false → SamplingReady s → CaptureReady s →
    ∃ mem, Recorded s mem ∧
      let u := sampled (overrunHandshake s) mem
      eventStep .tick s = .next
        (if s.run.samples.toNat + 1 = s.conf.ns.toNat then
          detach { u with run := { u.run with samples := s.conf.ns, cur := 0 } }
        else { u with run := { u.run with samples := s.run.samples + 1 } })

/-- A tick of the step response (R236): on tick `STEPIDX` output 1 gets `STEPVAL` before the sampling; then one sample
frame is stored, the sample counted, the last one detaches. Spec's own decisions: D19, D20, D29 of
spec/92_eei_decisions.md. -/
def Obligations.StepTickAppliesStep : Prop :=
  ∀ s : State, s.active = some .kStep → s.flags.halt = false → SamplingReady s → CaptureReady s →
    1 ≤ s.cfg.ndac.toNat →
    ∃ mem, Recorded s mem ∧
      let o := overrunHandshake s
      let v := if s.run.samples = s.run.stepIdx then
        { o with dac := s.dac.set 0 s.run.stepVal, io := s.io ++ [.dac 1 s.run.stepVal] } else o
      let u := sampled v mem
      eventStep .tick s = .next
        (if s.run.samples.toNat + 1 = s.conf.ns.toNat then
          detach { u with run := { u.run with samples := s.conf.ns } }
        else { u with run := { u.run with samples := s.run.samples + 1 } })

/-- A tick of the triggered capture (R228 to R232): one sample frame stored in slot `SAMPLES`, then the timeout, then
the phase. Spec's own decisions: D19, D20, D22, D23, D24 of spec/92_eei_decisions.md. -/
def Obligations.TriggeredTickAdvancesPhase : Prop :=
  ∀ s : State, s.active = some .kTrig → s.flags.halt = false → SamplingReady s → KernelReady .kTrig s →
    ∃ mem, Recorded s mem ∧
      let a := nextSample s 0 1
      let v := sampled (overrunHandshake s) mem
      let u := { v with
        trig := { s.trig with tocnt := if s.trig.tocnt = 0 then 0 else s.trig.tocnt - 1 }
        run := { v.run with
          cur := if s.run.samples.toNat + 1 = s.conf.ns.toNat then 0 else v.run.cur
          samples := if s.run.samples.toNat + 1 = s.conf.ns.toNat then 0 else s.run.samples + 1 } }
      eventStep .tick s = .next
        (if s.trig.tocnt = 1 ∧ s.run.phase ≠ .capture then
          detach { u with flags := { u.flags with toErr := true } }
        else match s.run.phase with
          | .prefill => { u with run := { u.run with
              pre := if s.run.pre = 0 then 0 else s.run.pre - 1
              phase := if s.run.pre.toNat ≤ 1 then .armPre else .prefill } }
          | .armPre =>
            if (s.trig.edge = .rising ∧ a < s.trig.level) ∨ (s.trig.edge = .falling ∧ s.trig.level < a) then
              { u with run := { u.run with phase := .armPost } }
            else u
          | .armPost =>
            if (s.trig.edge = .rising ∧ s.trig.level < a) ∨ (s.trig.edge = .falling ∧ a < s.trig.level) then
              let w := { u with run := { u.run with trigIdx := s.run.samples, phase := .capture } }
              if s.run.post = 0 then detach w else w
            else u
          | .capture =>
            let w := { u with run := { u.run with post := s.run.post - 1 } }
            if s.run.post = 1 then detach w else w)

/-- A tick of a wave response (R261, R262): the tables are played; while `WREP` is not 0 nothing is recorded and a
completed cycle counts it down; at 0 one sample frame is stored, and the last one detaches. Spec's own decisions: D19,
D20, D30 of spec/92_eei_decisions.md. -/
def Obligations.WaveResponseTickPlaysAndRecords : Prop :=
  ∀ (s : State) (dual : Bool),
    (s.active = some (if dual then .kDwresp else .kWresp) ∨ (dual = false ∧ s.active = some .kSwresp)) →
    s.flags.halt = false → SamplingReady s → CaptureReady s → PlayingReady s → PrimaryReady s →
    (dual = true → SecondaryReady s) →
    let v := played dual (overrunHandshake s)
    (s.run.wrep ≠ 0 → eventStep .tick s = .next { v with run := { cursorsAdvanced dual s with
      wrep := if endsCycle s then s.run.wrep - 1 else s.run.wrep } }) ∧
    (s.run.wrep = 0 → ∃ mem, Recorded s mem ∧
      let u := sampled v mem
      let run := { cursorsAdvanced dual s with cur := u.run.cur, samples := s.run.samples + 1 }
      eventStep .tick s = .next
        (if s.run.samples.toNat + 1 = s.conf.ns.toNat then { detach u with run := run } else { u with run := run }))

/-- A tick of a wave play (R267, R262): the tables are played, nothing is recorded; a completed cycle of the primary
table counts a finite play down, and the last one detaches. Spec's own decisions: D20, D30 of
spec/92_eei_decisions.md. -/
def Obligations.WavePlayTickCountsCycles : Prop :=
  ∀ (s : State) (dual : Bool), s.active = some (if dual then .kDwplay else .kWplay) → s.flags.halt = false →
    PlayingReady s → PrimaryReady s → (dual = true → SecondaryReady s) → CyclesReady s →
    let v := { played dual (overrunHandshake s) with run := cursorsAdvanced dual s }
    eventStep .tick s = .next
      (if endsCycle s = true ∧ s.run.winf = false then
        let w := { v with run := { v.run with wrep := s.run.wrep - 1 } }
        if s.run.wrep = 1 then detach w else w
      else v)

/-- A poll step while the run is in progress clears `OVR` and does nothing else; repeating it has no further effect
(R196). -/
def Obligations.PollAcknowledgesTick : Prop :=
  ∀ (s : State) (x : RunCmd), s.mpc = .poll x → s.flags.done = false →
    let t := { s with flags := { s.flags with ovr := false } }
    eventStep .main s = .next t ∧ eventStep .main t = .next t

/-- The poll step that sees `DONE` sends the run's reply, resets the run registers and the flags other than `HALT`,
and returns to `FETCH` (R197, R199, R58). Spec's own decisions: D27, D28, D39 of spec/92_eei_decisions.md. -/
def Obligations.PollEndsRun : Prop :=
  ∀ (s : State) (x : RunCmd), s.Inv → s.mpc = .poll x → s.flags.done = true →
    let payload : List Byte := match x with
      | .wplay | .dwplay => [status s]
      | .trigrd => capturePayload (status s) (triggerStart s) s
      | _ => capturePayload (status s) 0 s
    eventStep .main s = .next { reply payload s with
      run := RunRegs.initial
      flags := { ovr := false, ovrErr := false, toErr := false, halt := s.flags.halt, done := false }
      mpc := .fetch }

/-! ## Whole runs -/

/-- A halt edge in a run: the next tick detaches with no kernel work done, and the reply begins with `ST_HALTED`
(R201, R322 (b)). Spec's own decisions: D20, D27 of spec/92_eei_decisions.md. -/
def Obligations.HaltEndsRunAtNextTick : Prop :=
  ∀ (s : State) (x : RunCmd), s.Inv → s.mpc = .poll x → s.active = some (kernelOf x) →
    ∃ t u tail, runEvents [.halt, .tick] s = .next t ∧ t.active = none ∧ t.flags.done = true ∧
      t.run = s.run ∧ t.trig = s.trig ∧ t.mem = s.mem ∧ t.dac = s.dac ∧ t.env = s.env ∧
      t.io = s.io ++ [.timerDetach] ∧
      eventStep .main t = .next u ∧ u.mpc = .fetch ∧ u.link.tx = s.link.tx ++ s.cfg.stHalted :: tail

/-- A halt edge while the block is idle has no effect once a command byte is there to be taken (R322 (a)). -/
def Obligations.IdleHaltIsDiscarded : Prop :=
  ∀ s : State, s.mpc = .fetch → decode s.cfg.codes s.link.rx ≠ .incomplete →
    eventStep .main (haltStep s) = eventStep .main s

/-- Headline: while a run is in progress, the overrun error stands recorded after a tick exactly when that tick or an
earlier one of the run came with no poll since the tick before it (R200). -/
def Obligations.OverrunMeansMissedPoll : Prop :=
  ∀ (es : List Event) (s t u : State) (x : RunCmd), .reset ∉ es → s.mpc = .poll x →
    s.flags.done = false → s.flags.ovr = false → s.flags.ovrErr = false →
    (∀ n v, runEvents (es.take n) s = .next v → v.active ≠ none) →
    runEvents es s = .next t → eventStep .tick t = .next u →
    (u.flags.ovrErr = true ↔ MissedPoll (es ++ [.tick]))

/-- Headline: a counted wave play of r cycles detaches after exactly r · WS ticks, having sent the primary table
cyclically to output 1 and in a dual play the secondary table cyclically to output 2, however the polls fall (R267).
Spec's own decision: D30 of spec/92_eei_decisions.md. -/
def Obligations.WavePlayRunsWholeCycles : Prop :=
  ∀ (es : List Event) (s : State) (dual : Bool) (x : RunCmd), PollsAndTicks es →
    s.active = some (if dual then .kDwplay else .kWplay) → s.mpc = .poll x → s.flags.done = false →
    s.flags.halt = false → PlayingReady s → s.run.wpos = 0 → s.run.winf = false →
    s.run.wrep ≠ 0 → s.conf.ws ≠ 0 → (dual = true → s.run.wpos2 = 0 ∧ s.conf.ws2 ≠ 0) →
    es.count .tick ≤ s.run.wrep.toNat * s.conf.ws.toNat →
    (es.count .tick = s.run.wrep.toNat * s.conf.ws.toNat → es.getLast? = some .tick) →
    ∃ t, runEvents es s = .next t ∧
      (t.active = none ↔ es.count .tick = s.run.wrep.toNat * s.conf.ws.toNat) ∧
      (t.flags.done = true ↔ es.count .tick = s.run.wrep.toNat * s.conf.ws.toNat) ∧
      t.mem = s.mem ∧ t.env = s.env ∧
      t.io = s.io ++
        ((List.range (es.count .tick)).flatMap fun j =>
          .dac 1 (wordAt s (j % s.conf.ws.toNat)) ::
            if dual then [.dac 2 (wordAt s (s.conf.ws.toNat + j % s.conf.ws2.toNat))] else []) ++
        if es.count .tick = s.run.wrep.toNat * s.conf.ws.toNat then [.timerDetach] else []

/-- Headline: a wave response with repeat count R plays R whole cycles without recording and then records NS sample
frames, so it detaches after exactly R · WS + NS ticks (R261). What is played is the primary table, cyclically, on
output 1, and in a dual run the secondary one on output 2; what is recorded lies slot after slot from `TBASE` on, and
every other byte of the buffer is kept. Spec's own decisions: D19, D30 of spec/92_eei_decisions.md. -/
def Obligations.WaveResponseRecordsAfterRepeats : Prop :=
  ∀ (es : List Event) (s : State) (dual : Bool) (x : RunCmd), PollsAndTicks es →
    (s.active = some (if dual then .kDwresp else .kWresp) ∨ (dual = false ∧ s.active = some .kSwresp)) →
    s.mpc = .poll x → s.flags.done = false → s.flags.halt = false → SamplingReady s → PlayingReady s →
    s.run.wpos = 0 → s.run.samples = 0 → s.run.cur = 0 → s.conf.ns ≠ 0 → s.conf.ws ≠ 0 →
    (dual = true → s.run.wpos2 = 0 ∧ s.conf.ws2 ≠ 0) →
    es.count .tick ≤ s.run.wrep.toNat * s.conf.ws.toNat + s.conf.ns.toNat →
    (es.count .tick = s.run.wrep.toNat * s.conf.ws.toNat + s.conf.ns.toNat → es.getLast? = some .tick) →
    ∃ t, runEvents es s = .next t ∧
      (t.active = none ↔ es.count .tick = s.run.wrep.toNat * s.conf.ws.toNat + s.conf.ns.toNat) ∧
      t.run.samples.toNat = es.count .tick - s.run.wrep.toNat * s.conf.ws.toNat ∧
      t.env.calls = s.env.calls +
        (es.count .tick - s.run.wrep.toNat * s.conf.ws.toNat) * s.run.nchrun.toNat ∧
      (t.io.filterMap fun | .dac 1 v => some v | _ => none) =
        (s.io.filterMap fun | .dac 1 v => some v | _ => none) ++
          ((List.range (es.count .tick)).map fun j => wordAt s (j % s.conf.ws.toNat)) ∧
      (t.io.filterMap fun | .dac 2 v => some v | _ => none) =
        (s.io.filterMap fun | .dac 2 v => some v | _ => none) ++
          (if dual then
            (List.range (es.count .tick)).map fun j => wordAt s (s.conf.ws.toNat + j % s.conf.ws2.toNat)
          else []) ∧
      (∀ j c, j < t.run.samples.toNat → c < s.run.nchrun.toNat →
        wordAt t (slotIndex s j c) = nextSample s (j * s.run.nchrun.toNat + c)
          (if s.active = some .kSwresp then s.run.selch.toNat else c + 1)) ∧
      ∀ a, (a < 2 * tbase s ∨ 2 * (tbase s + t.run.samples.toNat * s.run.nchrun.toNat) ≤ a) →
        byteAt t a = byteAt s a

/-- Headline: an async run of NS ticks with polls anywhere between them is answered with the samples of its ticks,
channel by channel in the order they were read, under `ST_OK`, or `ST_OVERRUN` where a poll was missed (R222, R200).
Spec's own decisions: D19, D27 of spec/92_eei_decisions.md. -/
def Obligations.AsyncRunDeliversSamples : Prop :=
  ∀ (es : List Event) (s : State), PollsAndTicks es → s.active = some .kAsync → s.mpc = .poll .asyncrd →
    s.flags = { ovr := false, ovrErr := false, toErr := false, halt := false, done := false } →
    s.link.crcTx = 0 → SamplingReady s → s.run.samples = 0 → s.run.cur = 0 → s.conf.ns ≠ 0 →
    es.count .tick = s.conf.ns.toNat → es.getLast? = some .tick →
    ∃ t st, runEvents (es ++ [.main]) s = .next t ∧ t.mpc = .fetch ∧ t.active = none ∧
      (MissedPoll es → st = s.cfg.stOverrun) ∧ (¬ MissedPoll es → st = s.cfg.stOk) ∧
      let samples := (List.range s.run.nchrun.toNat).flatMap fun c =>
        (List.range s.conf.ns.toNat).flatMap fun j =>
          wordBytes (nextSample s (j * s.run.nchrun.toNat + c) (c + 1))
      let payload := [st, BitVec.setWidth 8 s.run.nchrun, s.conf.ndig] ++ wordBytes s.conf.ns ++ samples
      t.link.tx = s.link.tx ++ payload ++ [xorBytes payload]

/-- Headline: a triggered run that ends by its trigger is answered, by the poll step after its last tick, with the
samples of its last NS ticks, channel by channel in the order they were read, and the tick whose sample crossed the
level is at output position NS div 2 (R234, R227); the status is `ST_OVERRUN` where a poll was missed, `ST_OK`
otherwise. Spec's own decisions: D19, D22, D23, D27 of spec/92_eei_decisions.md. -/
def Obligations.TriggeredWindowIsCentred : Prop :=
  ∀ (es : List Event) (s t : State), PollsAndTicks es → s.active = some .kTrig → s.mpc = .poll .trigrd →
    s.flags = { ovr := false, ovrErr := false, toErr := false, halt := false, done := false } →
    s.link.crcTx = 0 → SamplingReady s → s.run.samples = 0 → s.run.cur = 0 → s.run.phase = .prefill →
    s.conf.ns ≠ 0 → s.run.pre.toNat = s.conf.ns.toNat / 2 →
    s.run.post.toNat = s.conf.ns.toNat - s.conf.ns.toNat / 2 - 1 → es.getLast? = some .tick →
    (∀ v, runEvents es.dropLast s = .next v → v.active ≠ none) →
    runEvents es s = .next t → t.active = none → t.flags.toErr = false →
    let ns := s.conf.ns.toNat
    let first := es.count .tick - ns
    ns ≤ es.count .tick ∧
    crosses s.trig.edge s.trig.level (nextSample s ((first + ns / 2) * s.run.nchrun.toNat) 1) = true ∧
    ∃ u st, runEvents (es ++ [.main]) s = .next u ∧ u.mpc = .fetch ∧
      (MissedPoll es → st = s.cfg.stOverrun) ∧ (¬ MissedPoll es → st = s.cfg.stOk) ∧
      let samples := (List.range s.run.nchrun.toNat).flatMap fun c => (List.range ns).flatMap fun j =>
        wordBytes (nextSample s ((first + j) * s.run.nchrun.toNat + c) (c + 1))
      let payload := [st, BitVec.setWidth 8 s.run.nchrun, s.conf.ndig] ++ wordBytes s.conf.ns ++ samples
      u.link.tx = s.link.tx ++ payload ++ [xorBytes payload]

/-- Headline: a triggered run with a timeout count of at least 1 detaches within that count plus the postsample count
of ticks, whatever the samples are (R336 (c)). Spec's own decisions: D22, D23, D24 of spec/92_eei_decisions.md. -/
def Obligations.TimedTriggeredRunEnds : Prop :=
  ∀ (es : List Event) (s : State), PollsAndTicks es → s.active = some .kTrig → s.mpc = .poll .trigrd →
    s.flags.done = false → s.flags.halt = false → SamplingReady s → s.run.samples = 0 → s.run.cur = 0 →
    s.run.phase = .prefill → s.conf.ns ≠ 0 → s.trig.tocnt ≠ 0 →
    s.trig.tocnt.toNat + s.run.post.toNat ≤ es.count .tick →
    ∃ n v, runEvents (es.take n) s = .next v ∧ v.active = none ∧ v.flags.done = true
end

