-- ==== Sys2Proof/Laws/State.lean ====
section
/-! SUPPORT. State.lean: what each named update of the state does to each group of fields: one lemma per field per
update, true by rfl. -/

namespace Sys2Proof.Machine

/-! ### putByte -/

@[simp] theorem putByte_cfg (b : Byte) (s : State) : (putByte b s).cfg = s.cfg := rfl
@[simp] theorem putByte_conf (b : Byte) (s : State) : (putByte b s).conf = s.conf := rfl
@[simp] theorem putByte_trig (b : Byte) (s : State) : (putByte b s).trig = s.trig := rfl
@[simp] theorem putByte_mpc (b : Byte) (s : State) : (putByte b s).mpc = s.mpc := rfl
@[simp] theorem putByte_active (b : Byte) (s : State) : (putByte b s).active = s.active := rfl
@[simp] theorem putByte_flags (b : Byte) (s : State) : (putByte b s).flags = s.flags := rfl
@[simp] theorem putByte_link (b : Byte) (s : State) :
    (putByte b s).link = { s.link with tx := s.link.tx ++ [b], crcTx := s.link.crcTx ^^^ b } := rfl
@[simp] theorem putByte_dac (b : Byte) (s : State) : (putByte b s).dac = s.dac := rfl
@[simp] theorem putByte_run (b : Byte) (s : State) : (putByte b s).run = s.run := rfl
@[simp] theorem putByte_mem (b : Byte) (s : State) : (putByte b s).mem = s.mem := rfl
@[simp] theorem putByte_io (b : Byte) (s : State) : (putByte b s).io = s.io := rfl
@[simp] theorem putByte_env (b : Byte) (s : State) : (putByte b s).env = s.env := rfl
@[simp] theorem putByte_agenda (b : Byte) (s : State) : (putByte b s).agenda = s.agenda := rfl
@[simp] theorem putByte_turn (b : Byte) (s : State) : (putByte b s).turn = s.turn := rfl
@[simp] theorem putByte_resets (b : Byte) (s : State) : (putByte b s).resets = s.resets := rfl

/-! ### putU16 -/

@[simp] theorem putU16_cfg (w : Word) (s : State) : (putU16 w s).cfg = s.cfg := rfl
@[simp] theorem putU16_conf (w : Word) (s : State) : (putU16 w s).conf = s.conf := rfl
@[simp] theorem putU16_trig (w : Word) (s : State) : (putU16 w s).trig = s.trig := rfl
@[simp] theorem putU16_mpc (w : Word) (s : State) : (putU16 w s).mpc = s.mpc := rfl
@[simp] theorem putU16_active (w : Word) (s : State) : (putU16 w s).active = s.active := rfl
@[simp] theorem putU16_flags (w : Word) (s : State) : (putU16 w s).flags = s.flags := rfl
@[simp] theorem putU16_link (w : Word) (s : State) :
    (putU16 w s).link = (putByte (hiByte w) (putByte (loByte w) s)).link := rfl
@[simp] theorem putU16_dac (w : Word) (s : State) : (putU16 w s).dac = s.dac := rfl
@[simp] theorem putU16_run (w : Word) (s : State) : (putU16 w s).run = s.run := rfl
@[simp] theorem putU16_mem (w : Word) (s : State) : (putU16 w s).mem = s.mem := rfl
@[simp] theorem putU16_io (w : Word) (s : State) : (putU16 w s).io = s.io := rfl
@[simp] theorem putU16_env (w : Word) (s : State) : (putU16 w s).env = s.env := rfl
@[simp] theorem putU16_agenda (w : Word) (s : State) : (putU16 w s).agenda = s.agenda := rfl
@[simp] theorem putU16_turn (w : Word) (s : State) : (putU16 w s).turn = s.turn := rfl
@[simp] theorem putU16_resets (w : Word) (s : State) : (putU16 w s).resets = s.resets := rfl

/-! ### putDec -/

@[simp] theorem putDec_cfg (d : Dec) (s : State) : (putDec d s).cfg = s.cfg := rfl
@[simp] theorem putDec_conf (d : Dec) (s : State) : (putDec d s).conf = s.conf := rfl
@[simp] theorem putDec_trig (d : Dec) (s : State) : (putDec d s).trig = s.trig := rfl
@[simp] theorem putDec_mpc (d : Dec) (s : State) : (putDec d s).mpc = s.mpc := rfl
@[simp] theorem putDec_active (d : Dec) (s : State) : (putDec d s).active = s.active := rfl
@[simp] theorem putDec_flags (d : Dec) (s : State) : (putDec d s).flags = s.flags := rfl
@[simp] theorem putDec_link (d : Dec) (s : State) :
    (putDec d s).link = (putU16 (manWord d) (putByte (expByte d) s)).link := rfl
@[simp] theorem putDec_dac (d : Dec) (s : State) : (putDec d s).dac = s.dac := rfl
@[simp] theorem putDec_run (d : Dec) (s : State) : (putDec d s).run = s.run := rfl
@[simp] theorem putDec_mem (d : Dec) (s : State) : (putDec d s).mem = s.mem := rfl
@[simp] theorem putDec_io (d : Dec) (s : State) : (putDec d s).io = s.io := rfl
@[simp] theorem putDec_env (d : Dec) (s : State) : (putDec d s).env = s.env := rfl
@[simp] theorem putDec_agenda (d : Dec) (s : State) : (putDec d s).agenda = s.agenda := rfl
@[simp] theorem putDec_turn (d : Dec) (s : State) : (putDec d s).turn = s.turn := rfl
@[simp] theorem putDec_resets (d : Dec) (s : State) : (putDec d s).resets = s.resets := rfl

/-! ### putChecksum -/

@[simp] theorem putChecksum_cfg (s : State) : (putChecksum s).cfg = s.cfg := rfl
@[simp] theorem putChecksum_conf (s : State) : (putChecksum s).conf = s.conf := rfl
@[simp] theorem putChecksum_trig (s : State) : (putChecksum s).trig = s.trig := rfl
@[simp] theorem putChecksum_mpc (s : State) : (putChecksum s).mpc = s.mpc := rfl
@[simp] theorem putChecksum_active (s : State) : (putChecksum s).active = s.active := rfl
@[simp] theorem putChecksum_flags (s : State) : (putChecksum s).flags = s.flags := rfl
@[simp] theorem putChecksum_link (s : State) :
    (putChecksum s).link = { s.link with tx := s.link.tx ++ [s.link.crcTx], crcTx := s.link.crcTx ^^^ s.link.crcTx } := rfl
@[simp] theorem putChecksum_dac (s : State) : (putChecksum s).dac = s.dac := rfl
@[simp] theorem putChecksum_run (s : State) : (putChecksum s).run = s.run := rfl
@[simp] theorem putChecksum_mem (s : State) : (putChecksum s).mem = s.mem := rfl
@[simp] theorem putChecksum_io (s : State) : (putChecksum s).io = s.io := rfl
@[simp] theorem putChecksum_env (s : State) : (putChecksum s).env = s.env := rfl
@[simp] theorem putChecksum_agenda (s : State) : (putChecksum s).agenda = s.agenda := rfl
@[simp] theorem putChecksum_turn (s : State) : (putChecksum s).turn = s.turn := rfl
@[simp] theorem putChecksum_resets (s : State) : (putChecksum s).resets = s.resets := rfl

/-! ### replyAck -/

@[simp] theorem replyAck_cfg (s : State) : (replyAck s).cfg = s.cfg := rfl
@[simp] theorem replyAck_conf (s : State) : (replyAck s).conf = s.conf := rfl
@[simp] theorem replyAck_trig (s : State) : (replyAck s).trig = s.trig := rfl
@[simp] theorem replyAck_mpc (s : State) : (replyAck s).mpc = s.mpc := rfl
@[simp] theorem replyAck_active (s : State) : (replyAck s).active = s.active := rfl
@[simp] theorem replyAck_flags (s : State) : (replyAck s).flags = s.flags := rfl
@[simp] theorem replyAck_link (s : State) : (replyAck s).link = (putChecksum (putByte s.cfg.ack s)).link := rfl
@[simp] theorem replyAck_dac (s : State) : (replyAck s).dac = s.dac := rfl
@[simp] theorem replyAck_run (s : State) : (replyAck s).run = s.run := rfl
@[simp] theorem replyAck_mem (s : State) : (replyAck s).mem = s.mem := rfl
@[simp] theorem replyAck_io (s : State) : (replyAck s).io = s.io := rfl
@[simp] theorem replyAck_env (s : State) : (replyAck s).env = s.env := rfl
@[simp] theorem replyAck_agenda (s : State) : (replyAck s).agenda = s.agenda := rfl
@[simp] theorem replyAck_turn (s : State) : (replyAck s).turn = s.turn := rfl
@[simp] theorem replyAck_resets (s : State) : (replyAck s).resets = s.resets := rfl

/-! ### replyStatus -/

@[simp] theorem replyStatus_cfg (st : Byte) (s : State) : (replyStatus st s).cfg = s.cfg := rfl
@[simp] theorem replyStatus_conf (st : Byte) (s : State) : (replyStatus st s).conf = s.conf := rfl
@[simp] theorem replyStatus_trig (st : Byte) (s : State) : (replyStatus st s).trig = s.trig := rfl
@[simp] theorem replyStatus_mpc (st : Byte) (s : State) : (replyStatus st s).mpc = s.mpc := rfl
@[simp] theorem replyStatus_active (st : Byte) (s : State) : (replyStatus st s).active = s.active := rfl
@[simp] theorem replyStatus_flags (st : Byte) (s : State) : (replyStatus st s).flags = s.flags := rfl
@[simp] theorem replyStatus_link (st : Byte) (s : State) :
    (replyStatus st s).link = (putChecksum (putByte st s)).link := rfl
@[simp] theorem replyStatus_dac (st : Byte) (s : State) : (replyStatus st s).dac = s.dac := rfl
@[simp] theorem replyStatus_run (st : Byte) (s : State) : (replyStatus st s).run = s.run := rfl
@[simp] theorem replyStatus_mem (st : Byte) (s : State) : (replyStatus st s).mem = s.mem := rfl
@[simp] theorem replyStatus_io (st : Byte) (s : State) : (replyStatus st s).io = s.io := rfl
@[simp] theorem replyStatus_env (st : Byte) (s : State) : (replyStatus st s).env = s.env := rfl
@[simp] theorem replyStatus_agenda (st : Byte) (s : State) : (replyStatus st s).agenda = s.agenda := rfl
@[simp] theorem replyStatus_turn (st : Byte) (s : State) : (replyStatus st s).turn = s.turn := rfl
@[simp] theorem replyStatus_resets (st : Byte) (s : State) : (replyStatus st s).resets = s.resets := rfl

/-! ### raise -/

@[simp] theorem raise_cfg (code : Byte) (s : State) : (raise code s).cfg = s.cfg := rfl
@[simp] theorem raise_conf (code : Byte) (s : State) : (raise code s).conf = s.conf := rfl
@[simp] theorem raise_trig (code : Byte) (s : State) : (raise code s).trig = s.trig := rfl
@[simp] theorem raise_mpc (code : Byte) (s : State) : (raise code s).mpc = .fetch := rfl
@[simp] theorem raise_active (code : Byte) (s : State) : (raise code s).active = s.active := rfl
@[simp] theorem raise_flags (code : Byte) (s : State) : (raise code s).flags = s.flags := rfl
@[simp] theorem raise_link (code : Byte) (s : State) :
    (raise code s).link = (putChecksum (putByte code s)).link := rfl
@[simp] theorem raise_dac (code : Byte) (s : State) : (raise code s).dac = s.dac := rfl
@[simp] theorem raise_run (code : Byte) (s : State) : (raise code s).run = s.run := rfl
@[simp] theorem raise_mem (code : Byte) (s : State) : (raise code s).mem = s.mem := rfl
@[simp] theorem raise_io (code : Byte) (s : State) : (raise code s).io = s.io := rfl
@[simp] theorem raise_env (code : Byte) (s : State) : (raise code s).env = s.env := rfl
@[simp] theorem raise_agenda (code : Byte) (s : State) : (raise code s).agenda = s.agenda := rfl
@[simp] theorem raise_turn (code : Byte) (s : State) : (raise code s).turn = s.turn := rfl
@[simp] theorem raise_resets (code : Byte) (s : State) : (raise code s).resets = s.resets := rfl

/-! ### raiseNack -/

@[simp] theorem raiseNack_cfg (s : State) : (raiseNack s).cfg = s.cfg := rfl
@[simp] theorem raiseNack_conf (s : State) : (raiseNack s).conf = s.conf := rfl
@[simp] theorem raiseNack_trig (s : State) : (raiseNack s).trig = s.trig := rfl
@[simp] theorem raiseNack_mpc (s : State) : (raiseNack s).mpc = .fetch := rfl
@[simp] theorem raiseNack_active (s : State) : (raiseNack s).active = s.active := rfl
@[simp] theorem raiseNack_flags (s : State) : (raiseNack s).flags = s.flags := rfl
@[simp] theorem raiseNack_link (s : State) : (raiseNack s).link = (putChecksum (putByte s.cfg.nack s)).link := rfl
@[simp] theorem raiseNack_dac (s : State) : (raiseNack s).dac = s.dac := rfl
@[simp] theorem raiseNack_run (s : State) : (raiseNack s).run = s.run := rfl
@[simp] theorem raiseNack_mem (s : State) : (raiseNack s).mem = s.mem := rfl
@[simp] theorem raiseNack_io (s : State) : (raiseNack s).io = s.io := rfl
@[simp] theorem raiseNack_env (s : State) : (raiseNack s).env = s.env := rfl
@[simp] theorem raiseNack_agenda (s : State) : (raiseNack s).agenda = s.agenda := rfl
@[simp] theorem raiseNack_turn (s : State) : (raiseNack s).turn = s.turn := rfl
@[simp] theorem raiseNack_resets (s : State) : (raiseNack s).resets = s.resets := rfl

/-! ### raiseChecksumError -/

@[simp] theorem raiseChecksumError_cfg (s : State) : (raiseChecksumError s).cfg = s.cfg := rfl
@[simp] theorem raiseChecksumError_conf (s : State) : (raiseChecksumError s).conf = s.conf := rfl
@[simp] theorem raiseChecksumError_trig (s : State) : (raiseChecksumError s).trig = s.trig := rfl
@[simp] theorem raiseChecksumError_mpc (s : State) : (raiseChecksumError s).mpc = .fetch := rfl
@[simp] theorem raiseChecksumError_active (s : State) : (raiseChecksumError s).active = s.active := rfl
@[simp] theorem raiseChecksumError_flags (s : State) : (raiseChecksumError s).flags = s.flags := rfl
@[simp] theorem raiseChecksumError_link (s : State) :
    (raiseChecksumError s).link = (putChecksum (putByte s.cfg.ecrc s)).link := rfl
@[simp] theorem raiseChecksumError_dac (s : State) : (raiseChecksumError s).dac = s.dac := rfl
@[simp] theorem raiseChecksumError_run (s : State) : (raiseChecksumError s).run = s.run := rfl
@[simp] theorem raiseChecksumError_mem (s : State) : (raiseChecksumError s).mem = s.mem := rfl
@[simp] theorem raiseChecksumError_io (s : State) : (raiseChecksumError s).io = s.io := rfl
@[simp] theorem raiseChecksumError_env (s : State) : (raiseChecksumError s).env = s.env := rfl
@[simp] theorem raiseChecksumError_agenda (s : State) : (raiseChecksumError s).agenda = s.agenda := rfl
@[simp] theorem raiseChecksumError_turn (s : State) : (raiseChecksumError s).turn = s.turn := rfl
@[simp] theorem raiseChecksumError_resets (s : State) : (raiseChecksumError s).resets = s.resets := rfl

/-! ### dropByte -/

@[simp] theorem dropByte_cfg (s : State) : (dropByte s).cfg = s.cfg := rfl
@[simp] theorem dropByte_conf (s : State) : (dropByte s).conf = s.conf := rfl
@[simp] theorem dropByte_trig (s : State) : (dropByte s).trig = s.trig := rfl
@[simp] theorem dropByte_mpc (s : State) : (dropByte s).mpc = s.mpc := rfl
@[simp] theorem dropByte_active (s : State) : (dropByte s).active = s.active := rfl
@[simp] theorem dropByte_flags (s : State) : (dropByte s).flags = s.flags := rfl
@[simp] theorem dropByte_link (s : State) : (dropByte s).link = { s.link with rx := s.link.rx.tail } := rfl
@[simp] theorem dropByte_dac (s : State) : (dropByte s).dac = s.dac := rfl
@[simp] theorem dropByte_run (s : State) : (dropByte s).run = s.run := rfl
@[simp] theorem dropByte_mem (s : State) : (dropByte s).mem = s.mem := rfl
@[simp] theorem dropByte_io (s : State) : (dropByte s).io = s.io := rfl
@[simp] theorem dropByte_env (s : State) : (dropByte s).env = s.env := rfl
@[simp] theorem dropByte_agenda (s : State) : (dropByte s).agenda = s.agenda := rfl
@[simp] theorem dropByte_turn (s : State) : (dropByte s).turn = s.turn := rfl
@[simp] theorem dropByte_resets (s : State) : (dropByte s).resets = s.resets := rfl

/-! ### emit -/

@[simp] theorem emit_cfg (e : OutEvent) (s : State) : (emit e s).cfg = s.cfg := rfl
@[simp] theorem emit_conf (e : OutEvent) (s : State) : (emit e s).conf = s.conf := rfl
@[simp] theorem emit_trig (e : OutEvent) (s : State) : (emit e s).trig = s.trig := rfl
@[simp] theorem emit_mpc (e : OutEvent) (s : State) : (emit e s).mpc = s.mpc := rfl
@[simp] theorem emit_active (e : OutEvent) (s : State) : (emit e s).active = s.active := rfl
@[simp] theorem emit_flags (e : OutEvent) (s : State) : (emit e s).flags = s.flags := rfl
@[simp] theorem emit_link (e : OutEvent) (s : State) : (emit e s).link = s.link := rfl
@[simp] theorem emit_dac (e : OutEvent) (s : State) : (emit e s).dac = s.dac := rfl
@[simp] theorem emit_run (e : OutEvent) (s : State) : (emit e s).run = s.run := rfl
@[simp] theorem emit_mem (e : OutEvent) (s : State) : (emit e s).mem = s.mem := rfl
@[simp] theorem emit_io (e : OutEvent) (s : State) : (emit e s).io = s.io ++ [e] := rfl
@[simp] theorem emit_env (e : OutEvent) (s : State) : (emit e s).env = s.env := rfl
@[simp] theorem emit_agenda (e : OutEvent) (s : State) : (emit e s).agenda = s.agenda := rfl
@[simp] theorem emit_turn (e : OutEvent) (s : State) : (emit e s).turn = s.turn := rfl
@[simp] theorem emit_resets (e : OutEvent) (s : State) : (emit e s).resets = s.resets := rfl

/-! ### attach -/

@[simp] theorem attach_cfg (k : Kernel) (s : State) : (attach k s).cfg = s.cfg := rfl
@[simp] theorem attach_conf (k : Kernel) (s : State) : (attach k s).conf = s.conf := rfl
@[simp] theorem attach_trig (k : Kernel) (s : State) : (attach k s).trig = s.trig := rfl
@[simp] theorem attach_mpc (k : Kernel) (s : State) : (attach k s).mpc = s.mpc := rfl
@[simp] theorem attach_active (k : Kernel) (s : State) : (attach k s).active = some k := rfl
@[simp] theorem attach_flags (k : Kernel) (s : State) : (attach k s).flags = s.flags := rfl
@[simp] theorem attach_link (k : Kernel) (s : State) : (attach k s).link = s.link := rfl
@[simp] theorem attach_dac (k : Kernel) (s : State) : (attach k s).dac = s.dac := rfl
@[simp] theorem attach_run (k : Kernel) (s : State) : (attach k s).run = s.run := rfl
@[simp] theorem attach_mem (k : Kernel) (s : State) : (attach k s).mem = s.mem := rfl
@[simp] theorem attach_io (k : Kernel) (s : State) : (attach k s).io = s.io ++ [.timerAttach s.conf.per] := rfl
@[simp] theorem attach_env (k : Kernel) (s : State) : (attach k s).env = s.env := rfl
@[simp] theorem attach_agenda (k : Kernel) (s : State) : (attach k s).agenda = s.agenda := rfl
@[simp] theorem attach_turn (k : Kernel) (s : State) : (attach k s).turn = s.turn := rfl
@[simp] theorem attach_resets (k : Kernel) (s : State) : (attach k s).resets = s.resets := rfl

/-! ### detach -/

@[simp] theorem detach_cfg (s : State) : (detach s).cfg = s.cfg := rfl
@[simp] theorem detach_conf (s : State) : (detach s).conf = s.conf := rfl
@[simp] theorem detach_trig (s : State) : (detach s).trig = s.trig := rfl
@[simp] theorem detach_mpc (s : State) : (detach s).mpc = s.mpc := rfl
@[simp] theorem detach_active (s : State) : (detach s).active = none := rfl
@[simp] theorem detach_flags (s : State) : (detach s).flags = { s.flags with done := true } := rfl
@[simp] theorem detach_link (s : State) : (detach s).link = s.link := rfl
@[simp] theorem detach_dac (s : State) : (detach s).dac = s.dac := rfl
@[simp] theorem detach_run (s : State) : (detach s).run = s.run := rfl
@[simp] theorem detach_mem (s : State) : (detach s).mem = s.mem := rfl
@[simp] theorem detach_io (s : State) : (detach s).io = s.io ++ [.timerDetach] := rfl
@[simp] theorem detach_env (s : State) : (detach s).env = s.env := rfl
@[simp] theorem detach_agenda (s : State) : (detach s).agenda = s.agenda := rfl
@[simp] theorem detach_turn (s : State) : (detach s).turn = s.turn := rfl
@[simp] theorem detach_resets (s : State) : (detach s).resets = s.resets := rfl

/-! ### haltStep -/

@[simp] theorem haltStep_cfg (s : State) : (haltStep s).cfg = s.cfg := rfl
@[simp] theorem haltStep_conf (s : State) : (haltStep s).conf = s.conf := rfl
@[simp] theorem haltStep_trig (s : State) : (haltStep s).trig = s.trig := rfl
@[simp] theorem haltStep_mpc (s : State) : (haltStep s).mpc = s.mpc := rfl
@[simp] theorem haltStep_active (s : State) : (haltStep s).active = s.active := rfl
@[simp] theorem haltStep_flags (s : State) : (haltStep s).flags = { s.flags with halt := true } := rfl
@[simp] theorem haltStep_link (s : State) : (haltStep s).link = s.link := rfl
@[simp] theorem haltStep_dac (s : State) : (haltStep s).dac = s.dac := rfl
@[simp] theorem haltStep_run (s : State) : (haltStep s).run = s.run := rfl
@[simp] theorem haltStep_mem (s : State) : (haltStep s).mem = s.mem := rfl
@[simp] theorem haltStep_io (s : State) : (haltStep s).io = s.io := rfl
@[simp] theorem haltStep_env (s : State) : (haltStep s).env = s.env := rfl
@[simp] theorem haltStep_agenda (s : State) : (haltStep s).agenda = s.agenda := rfl
@[simp] theorem haltStep_turn (s : State) : (haltStep s).turn = s.turn := rfl
@[simp] theorem haltStep_resets (s : State) : (haltStep s).resets = s.resets := rfl

/-! ### overrunHandshake -/

@[simp] theorem overrunHandshake_cfg (s : State) : (overrunHandshake s).cfg = s.cfg := rfl
@[simp] theorem overrunHandshake_conf (s : State) : (overrunHandshake s).conf = s.conf := rfl
@[simp] theorem overrunHandshake_trig (s : State) : (overrunHandshake s).trig = s.trig := rfl
@[simp] theorem overrunHandshake_mpc (s : State) : (overrunHandshake s).mpc = s.mpc := rfl
@[simp] theorem overrunHandshake_active (s : State) : (overrunHandshake s).active = s.active := rfl
@[simp] theorem overrunHandshake_flags (s : State) :
    (overrunHandshake s).flags = { s.flags with ovr := true, ovrErr := s.flags.ovrErr || s.flags.ovr } := rfl
@[simp] theorem overrunHandshake_link (s : State) : (overrunHandshake s).link = s.link := rfl
@[simp] theorem overrunHandshake_dac (s : State) : (overrunHandshake s).dac = s.dac := rfl
@[simp] theorem overrunHandshake_run (s : State) : (overrunHandshake s).run = s.run := rfl
@[simp] theorem overrunHandshake_mem (s : State) : (overrunHandshake s).mem = s.mem := rfl
@[simp] theorem overrunHandshake_io (s : State) : (overrunHandshake s).io = s.io := rfl
@[simp] theorem overrunHandshake_env (s : State) : (overrunHandshake s).env = s.env := rfl
@[simp] theorem overrunHandshake_agenda (s : State) : (overrunHandshake s).agenda = s.agenda := rfl
@[simp] theorem overrunHandshake_turn (s : State) : (overrunHandshake s).turn = s.turn := rfl
@[simp] theorem overrunHandshake_resets (s : State) : (overrunHandshake s).resets = s.resets := rfl

/-! ### acknowledgeTick -/

@[simp] theorem acknowledgeTick_cfg (s : State) : (acknowledgeTick s).cfg = s.cfg := rfl
@[simp] theorem acknowledgeTick_conf (s : State) : (acknowledgeTick s).conf = s.conf := rfl
@[simp] theorem acknowledgeTick_trig (s : State) : (acknowledgeTick s).trig = s.trig := rfl
@[simp] theorem acknowledgeTick_mpc (s : State) : (acknowledgeTick s).mpc = s.mpc := rfl
@[simp] theorem acknowledgeTick_active (s : State) : (acknowledgeTick s).active = s.active := rfl
@[simp] theorem acknowledgeTick_flags (s : State) : (acknowledgeTick s).flags = { s.flags with ovr := false } := rfl
@[simp] theorem acknowledgeTick_link (s : State) : (acknowledgeTick s).link = s.link := rfl
@[simp] theorem acknowledgeTick_dac (s : State) : (acknowledgeTick s).dac = s.dac := rfl
@[simp] theorem acknowledgeTick_run (s : State) : (acknowledgeTick s).run = s.run := rfl
@[simp] theorem acknowledgeTick_mem (s : State) : (acknowledgeTick s).mem = s.mem := rfl
@[simp] theorem acknowledgeTick_io (s : State) : (acknowledgeTick s).io = s.io := rfl
@[simp] theorem acknowledgeTick_env (s : State) : (acknowledgeTick s).env = s.env := rfl
@[simp] theorem acknowledgeTick_agenda (s : State) : (acknowledgeTick s).agenda = s.agenda := rfl
@[simp] theorem acknowledgeTick_turn (s : State) : (acknowledgeTick s).turn = s.turn := rfl
@[simp] theorem acknowledgeTick_resets (s : State) : (acknowledgeTick s).resets = s.resets := rfl

/-! ### recordTimeout -/

@[simp] theorem recordTimeout_cfg (s : State) : (recordTimeout s).cfg = s.cfg := rfl
@[simp] theorem recordTimeout_conf (s : State) : (recordTimeout s).conf = s.conf := rfl
@[simp] theorem recordTimeout_trig (s : State) : (recordTimeout s).trig = s.trig := rfl
@[simp] theorem recordTimeout_mpc (s : State) : (recordTimeout s).mpc = s.mpc := rfl
@[simp] theorem recordTimeout_active (s : State) : (recordTimeout s).active = s.active := rfl
@[simp] theorem recordTimeout_flags (s : State) : (recordTimeout s).flags = { s.flags with toErr := true } := rfl
@[simp] theorem recordTimeout_link (s : State) : (recordTimeout s).link = s.link := rfl
@[simp] theorem recordTimeout_dac (s : State) : (recordTimeout s).dac = s.dac := rfl
@[simp] theorem recordTimeout_run (s : State) : (recordTimeout s).run = s.run := rfl
@[simp] theorem recordTimeout_mem (s : State) : (recordTimeout s).mem = s.mem := rfl
@[simp] theorem recordTimeout_io (s : State) : (recordTimeout s).io = s.io := rfl
@[simp] theorem recordTimeout_env (s : State) : (recordTimeout s).env = s.env := rfl
@[simp] theorem recordTimeout_agenda (s : State) : (recordTimeout s).agenda = s.agenda := rfl
@[simp] theorem recordTimeout_turn (s : State) : (recordTimeout s).turn = s.turn := rfl
@[simp] theorem recordTimeout_resets (s : State) : (recordTimeout s).resets = s.resets := rfl

/-! ### runRegisters -/

@[simp] theorem runRegisters_cfg (nch : Option (BitVec 3)) (s : State) : (runRegisters nch s).cfg = s.cfg := rfl
@[simp] theorem runRegisters_conf (nch : Option (BitVec 3)) (s : State) : (runRegisters nch s).conf = s.conf := rfl
@[simp] theorem runRegisters_trig (nch : Option (BitVec 3)) (s : State) : (runRegisters nch s).trig = s.trig := rfl
@[simp] theorem runRegisters_mpc (nch : Option (BitVec 3)) (s : State) : (runRegisters nch s).mpc = s.mpc := rfl
@[simp] theorem runRegisters_active (nch : Option (BitVec 3)) (s : State) :
    (runRegisters nch s).active = s.active := rfl
@[simp] theorem runRegisters_flags (nch : Option (BitVec 3)) (s : State) :
    (runRegisters nch s).flags = clearRunFlags s.flags := rfl
@[simp] theorem runRegisters_link (nch : Option (BitVec 3)) (s : State) : (runRegisters nch s).link = s.link := rfl
@[simp] theorem runRegisters_dac (nch : Option (BitVec 3)) (s : State) : (runRegisters nch s).dac = s.dac := rfl
@[simp] theorem runRegisters_run (nch : Option (BitVec 3)) (s : State) :
    (runRegisters nch s).run = { s.run with nchrun := nch.getD s.run.nchrun, samples := 0, cur := 0 } := rfl
@[simp] theorem runRegisters_mem (nch : Option (BitVec 3)) (s : State) : (runRegisters nch s).mem = s.mem := rfl
@[simp] theorem runRegisters_io (nch : Option (BitVec 3)) (s : State) : (runRegisters nch s).io = s.io := rfl
@[simp] theorem runRegisters_env (nch : Option (BitVec 3)) (s : State) : (runRegisters nch s).env = s.env := rfl
@[simp] theorem runRegisters_agenda (nch : Option (BitVec 3)) (s : State) :
    (runRegisters nch s).agenda = s.agenda := rfl
@[simp] theorem runRegisters_turn (nch : Option (BitVec 3)) (s : State) : (runRegisters nch s).turn = s.turn := rfl
@[simp] theorem runRegisters_resets (nch : Option (BitVec 3)) (s : State) :
    (runRegisters nch s).resets = s.resets := rfl

/-! ### launch -/

@[simp] theorem launch_cfg (k : Kernel) (x : RunCmd) (s : State) : (launch k x s).cfg = s.cfg := rfl
@[simp] theorem launch_conf (k : Kernel) (x : RunCmd) (s : State) : (launch k x s).conf = s.conf := rfl
@[simp] theorem launch_trig (k : Kernel) (x : RunCmd) (s : State) : (launch k x s).trig = s.trig := rfl
@[simp] theorem launch_mpc (k : Kernel) (x : RunCmd) (s : State) : (launch k x s).mpc = .poll x := rfl
@[simp] theorem launch_active (k : Kernel) (x : RunCmd) (s : State) : (launch k x s).active = some k := rfl
@[simp] theorem launch_flags (k : Kernel) (x : RunCmd) (s : State) : (launch k x s).flags = s.flags := rfl
@[simp] theorem launch_link (k : Kernel) (x : RunCmd) (s : State) : (launch k x s).link = s.link := rfl
@[simp] theorem launch_dac (k : Kernel) (x : RunCmd) (s : State) : (launch k x s).dac = s.dac := rfl
@[simp] theorem launch_run (k : Kernel) (x : RunCmd) (s : State) : (launch k x s).run = s.run := rfl
@[simp] theorem launch_mem (k : Kernel) (x : RunCmd) (s : State) : (launch k x s).mem = s.mem := rfl
@[simp] theorem launch_io (k : Kernel) (x : RunCmd) (s : State) :
    (launch k x s).io = s.io ++ [.timerAttach s.conf.per] := rfl
@[simp] theorem launch_env (k : Kernel) (x : RunCmd) (s : State) : (launch k x s).env = s.env := rfl
@[simp] theorem launch_agenda (k : Kernel) (x : RunCmd) (s : State) : (launch k x s).agenda = s.agenda := rfl
@[simp] theorem launch_turn (k : Kernel) (x : RunCmd) (s : State) : (launch k x s).turn = s.turn := rfl
@[simp] theorem launch_resets (k : Kernel) (x : RunCmd) (s : State) : (launch k x s).resets = s.resets := rfl

/-! ### endRun -/

@[simp] theorem endRun_cfg (s : State) : (endRun s).cfg = s.cfg := rfl
@[simp] theorem endRun_conf (s : State) : (endRun s).conf = s.conf := rfl
@[simp] theorem endRun_trig (s : State) : (endRun s).trig = s.trig := rfl
@[simp] theorem endRun_mpc (s : State) : (endRun s).mpc = s.mpc := rfl
@[simp] theorem endRun_active (s : State) : (endRun s).active = s.active := rfl
@[simp] theorem endRun_flags (s : State) : (endRun s).flags = clearRunFlags s.flags := rfl
@[simp] theorem endRun_link (s : State) : (endRun s).link = s.link := rfl
@[simp] theorem endRun_dac (s : State) : (endRun s).dac = s.dac := rfl
@[simp] theorem endRun_run (s : State) : (endRun s).run = RunRegs.initial := rfl
@[simp] theorem endRun_mem (s : State) : (endRun s).mem = s.mem := rfl
@[simp] theorem endRun_io (s : State) : (endRun s).io = s.io := rfl
@[simp] theorem endRun_env (s : State) : (endRun s).env = s.env := rfl
@[simp] theorem endRun_agenda (s : State) : (endRun s).agenda = s.agenda := rfl
@[simp] theorem endRun_turn (s : State) : (endRun s).turn = s.turn := rfl
@[simp] theorem endRun_resets (s : State) : (endRun s).resets = s.resets := rfl

/-! ### clearPrimary -/

@[simp] theorem clearPrimary_cfg (s : State) : (clearPrimary s).cfg = s.cfg := rfl
@[simp] theorem clearPrimary_conf (s : State) : (clearPrimary s).conf = { s.conf with ws := 0 } := rfl
@[simp] theorem clearPrimary_trig (s : State) : (clearPrimary s).trig = s.trig := rfl
@[simp] theorem clearPrimary_mpc (s : State) : (clearPrimary s).mpc = s.mpc := rfl
@[simp] theorem clearPrimary_active (s : State) : (clearPrimary s).active = s.active := rfl
@[simp] theorem clearPrimary_flags (s : State) : (clearPrimary s).flags = s.flags := rfl
@[simp] theorem clearPrimary_link (s : State) : (clearPrimary s).link = s.link := rfl
@[simp] theorem clearPrimary_dac (s : State) : (clearPrimary s).dac = s.dac := rfl
@[simp] theorem clearPrimary_run (s : State) : (clearPrimary s).run = s.run := rfl
@[simp] theorem clearPrimary_mem (s : State) : (clearPrimary s).mem = s.mem := rfl
@[simp] theorem clearPrimary_io (s : State) : (clearPrimary s).io = s.io := rfl
@[simp] theorem clearPrimary_env (s : State) : (clearPrimary s).env = s.env := rfl
@[simp] theorem clearPrimary_agenda (s : State) : (clearPrimary s).agenda = s.agenda := rfl
@[simp] theorem clearPrimary_turn (s : State) : (clearPrimary s).turn = s.turn := rfl
@[simp] theorem clearPrimary_resets (s : State) : (clearPrimary s).resets = s.resets := rfl

/-! ### clearSecondary -/

@[simp] theorem clearSecondary_cfg (s : State) : (clearSecondary s).cfg = s.cfg := rfl
@[simp] theorem clearSecondary_conf (s : State) : (clearSecondary s).conf = { s.conf with ws2 := 0 } := rfl
@[simp] theorem clearSecondary_trig (s : State) : (clearSecondary s).trig = s.trig := rfl
@[simp] theorem clearSecondary_mpc (s : State) : (clearSecondary s).mpc = s.mpc := rfl
@[simp] theorem clearSecondary_active (s : State) : (clearSecondary s).active = s.active := rfl
@[simp] theorem clearSecondary_flags (s : State) : (clearSecondary s).flags = s.flags := rfl
@[simp] theorem clearSecondary_link (s : State) : (clearSecondary s).link = s.link := rfl
@[simp] theorem clearSecondary_dac (s : State) : (clearSecondary s).dac = s.dac := rfl
@[simp] theorem clearSecondary_run (s : State) : (clearSecondary s).run = s.run := rfl
@[simp] theorem clearSecondary_mem (s : State) : (clearSecondary s).mem = s.mem := rfl
@[simp] theorem clearSecondary_io (s : State) : (clearSecondary s).io = s.io := rfl
@[simp] theorem clearSecondary_env (s : State) : (clearSecondary s).env = s.env := rfl
@[simp] theorem clearSecondary_agenda (s : State) : (clearSecondary s).agenda = s.agenda := rfl
@[simp] theorem clearSecondary_turn (s : State) : (clearSecondary s).turn = s.turn := rfl
@[simp] theorem clearSecondary_resets (s : State) : (clearSecondary s).resets = s.resets := rfl

/-! ### hostByte -/

@[simp] theorem hostByte_cfg (b : Byte) (s : State) : (hostByte b s).cfg = s.cfg := rfl
@[simp] theorem hostByte_conf (b : Byte) (s : State) : (hostByte b s).conf = s.conf := rfl
@[simp] theorem hostByte_trig (b : Byte) (s : State) : (hostByte b s).trig = s.trig := rfl
@[simp] theorem hostByte_mpc (b : Byte) (s : State) : (hostByte b s).mpc = s.mpc := rfl
@[simp] theorem hostByte_active (b : Byte) (s : State) : (hostByte b s).active = s.active := rfl
@[simp] theorem hostByte_flags (b : Byte) (s : State) : (hostByte b s).flags = s.flags := rfl
@[simp] theorem hostByte_link (b : Byte) (s : State) :
    (hostByte b s).link = { s.link with rx := s.link.rx ++ [b] } := rfl
@[simp] theorem hostByte_dac (b : Byte) (s : State) : (hostByte b s).dac = s.dac := rfl
@[simp] theorem hostByte_run (b : Byte) (s : State) : (hostByte b s).run = s.run := rfl
@[simp] theorem hostByte_mem (b : Byte) (s : State) : (hostByte b s).mem = s.mem := rfl
@[simp] theorem hostByte_io (b : Byte) (s : State) : (hostByte b s).io = s.io := rfl
@[simp] theorem hostByte_env (b : Byte) (s : State) : (hostByte b s).env = s.env := rfl
@[simp] theorem hostByte_agenda (b : Byte) (s : State) : (hostByte b s).agenda = s.agenda := rfl
@[simp] theorem hostByte_turn (b : Byte) (s : State) : (hostByte b s).turn = s.turn := rfl
@[simp] theorem hostByte_resets (b : Byte) (s : State) : (hostByte b s).resets = s.resets := rfl

/-! ### takeTurn -/

@[simp] theorem takeTurn_cfg (s : State) : (takeTurn s).cfg = s.cfg := rfl
@[simp] theorem takeTurn_conf (s : State) : (takeTurn s).conf = s.conf := rfl
@[simp] theorem takeTurn_trig (s : State) : (takeTurn s).trig = s.trig := rfl
@[simp] theorem takeTurn_mpc (s : State) : (takeTurn s).mpc = s.mpc := rfl
@[simp] theorem takeTurn_active (s : State) : (takeTurn s).active = s.active := rfl
@[simp] theorem takeTurn_flags (s : State) : (takeTurn s).flags = s.flags := rfl
@[simp] theorem takeTurn_link (s : State) : (takeTurn s).link = s.link := rfl
@[simp] theorem takeTurn_dac (s : State) : (takeTurn s).dac = s.dac := rfl
@[simp] theorem takeTurn_run (s : State) : (takeTurn s).run = s.run := rfl
@[simp] theorem takeTurn_mem (s : State) : (takeTurn s).mem = s.mem := rfl
@[simp] theorem takeTurn_io (s : State) : (takeTurn s).io = s.io := rfl
@[simp] theorem takeTurn_env (s : State) : (takeTurn s).env = s.env := rfl
@[simp] theorem takeTurn_agenda (s : State) : (takeTurn s).agenda = s.agenda.tail := rfl
@[simp] theorem takeTurn_turn (s : State) : (takeTurn s).turn = s.turn + 1 := rfl
@[simp] theorem takeTurn_resets (s : State) : (takeTurn s).resets = s.resets := rfl

/-! ### the answers of the environment -/

@[simp] theorem analogRead_cfg (c : Byte) (n : Word) (s : State) :
    (analogRead c n s).2.cfg = s.cfg := rfl
@[simp] theorem analogRead_conf (c : Byte) (n : Word) (s : State) :
    (analogRead c n s).2.conf = s.conf := rfl
@[simp] theorem analogRead_trig (c : Byte) (n : Word) (s : State) :
    (analogRead c n s).2.trig = s.trig := rfl
@[simp] theorem analogRead_mpc (c : Byte) (n : Word) (s : State) :
    (analogRead c n s).2.mpc = s.mpc := rfl
@[simp] theorem analogRead_active (c : Byte) (n : Word) (s : State) :
    (analogRead c n s).2.active = s.active := rfl
@[simp] theorem analogRead_flags (c : Byte) (n : Word) (s : State) :
    (analogRead c n s).2.flags = s.flags := rfl
@[simp] theorem analogRead_link (c : Byte) (n : Word) (s : State) :
    (analogRead c n s).2.link = s.link := rfl
@[simp] theorem analogRead_dac (c : Byte) (n : Word) (s : State) :
    (analogRead c n s).2.dac = s.dac := rfl
@[simp] theorem analogRead_run (c : Byte) (n : Word) (s : State) :
    (analogRead c n s).2.run = s.run := rfl
@[simp] theorem analogRead_mem (c : Byte) (n : Word) (s : State) :
    (analogRead c n s).2.mem = s.mem := rfl
@[simp] theorem analogRead_io (c : Byte) (n : Word) (s : State) :
    (analogRead c n s).2.io = s.io ++ [.analogRead c n] := rfl
@[simp] theorem analogRead_env (c : Byte) (n : Word) (s : State) :
    (analogRead c n s).2.env = { s.env with analog := s.env.analog.tail, calls := s.env.calls + 1 } := rfl
@[simp] theorem analogRead_agenda (c : Byte) (n : Word) (s : State) :
    (analogRead c n s).2.agenda = s.agenda := rfl
@[simp] theorem analogRead_turn (c : Byte) (n : Word) (s : State) :
    (analogRead c n s).2.turn = s.turn := rfl
@[simp] theorem analogRead_resets (c : Byte) (n : Word) (s : State) :
    (analogRead c n s).2.resets = s.resets := rfl

@[simp] theorem digitalRead_cfg (l : Byte) (s : State) :
    (digitalRead l s).2.cfg = s.cfg := rfl
@[simp] theorem digitalRead_conf (l : Byte) (s : State) :
    (digitalRead l s).2.conf = s.conf := rfl
@[simp] theorem digitalRead_trig (l : Byte) (s : State) :
    (digitalRead l s).2.trig = s.trig := rfl
@[simp] theorem digitalRead_mpc (l : Byte) (s : State) :
    (digitalRead l s).2.mpc = s.mpc := rfl
@[simp] theorem digitalRead_active (l : Byte) (s : State) :
    (digitalRead l s).2.active = s.active := rfl
@[simp] theorem digitalRead_flags (l : Byte) (s : State) :
    (digitalRead l s).2.flags = s.flags := rfl
@[simp] theorem digitalRead_link (l : Byte) (s : State) :
    (digitalRead l s).2.link = s.link := rfl
@[simp] theorem digitalRead_dac (l : Byte) (s : State) :
    (digitalRead l s).2.dac = s.dac := rfl
@[simp] theorem digitalRead_run (l : Byte) (s : State) :
    (digitalRead l s).2.run = s.run := rfl
@[simp] theorem digitalRead_mem (l : Byte) (s : State) :
    (digitalRead l s).2.mem = s.mem := rfl
@[simp] theorem digitalRead_io (l : Byte) (s : State) :
    (digitalRead l s).2.io = s.io ++ [.digitalRead l] := rfl
@[simp] theorem digitalRead_env (l : Byte) (s : State) :
    (digitalRead l s).2.env = { s.env with digital := s.env.digital.tail, calls := s.env.calls + 1 } := rfl
@[simp] theorem digitalRead_agenda (l : Byte) (s : State) :
    (digitalRead l s).2.agenda = s.agenda := rfl
@[simp] theorem digitalRead_turn (l : Byte) (s : State) :
    (digitalRead l s).2.turn = s.turn := rfl
@[simp] theorem digitalRead_resets (l : Byte) (s : State) :
    (digitalRead l s).2.resets = s.resets := rfl

@[simp] theorem digitalMode_cfg (l m : Byte) (s : State) :
    (digitalMode l m s).2.cfg = s.cfg := rfl
@[simp] theorem digitalMode_conf (l m : Byte) (s : State) :
    (digitalMode l m s).2.conf = s.conf := rfl
@[simp] theorem digitalMode_trig (l m : Byte) (s : State) :
    (digitalMode l m s).2.trig = s.trig := rfl
@[simp] theorem digitalMode_mpc (l m : Byte) (s : State) :
    (digitalMode l m s).2.mpc = s.mpc := rfl
@[simp] theorem digitalMode_active (l m : Byte) (s : State) :
    (digitalMode l m s).2.active = s.active := rfl
@[simp] theorem digitalMode_flags (l m : Byte) (s : State) :
    (digitalMode l m s).2.flags = s.flags := rfl
@[simp] theorem digitalMode_link (l m : Byte) (s : State) :
    (digitalMode l m s).2.link = s.link := rfl
@[simp] theorem digitalMode_dac (l m : Byte) (s : State) :
    (digitalMode l m s).2.dac = s.dac := rfl
@[simp] theorem digitalMode_run (l m : Byte) (s : State) :
    (digitalMode l m s).2.run = s.run := rfl
@[simp] theorem digitalMode_mem (l m : Byte) (s : State) :
    (digitalMode l m s).2.mem = s.mem := rfl
@[simp] theorem digitalMode_io (l m : Byte) (s : State) :
    (digitalMode l m s).2.io = s.io ++ [.digitalMode l m] := rfl
@[simp] theorem digitalMode_env (l m : Byte) (s : State) :
    (digitalMode l m s).2.env = { s.env with mode := s.env.mode.tail, calls := s.env.calls + 1 } := rfl
@[simp] theorem digitalMode_agenda (l m : Byte) (s : State) :
    (digitalMode l m s).2.agenda = s.agenda := rfl
@[simp] theorem digitalMode_turn (l m : Byte) (s : State) :
    (digitalMode l m s).2.turn = s.turn := rfl
@[simp] theorem digitalMode_resets (l m : Byte) (s : State) :
    (digitalMode l m s).2.resets = s.resets := rfl

@[simp] theorem resetFlag_cfg (s : State) :
    (resetFlag s).2.cfg = s.cfg := rfl
@[simp] theorem resetFlag_conf (s : State) :
    (resetFlag s).2.conf = s.conf := rfl
@[simp] theorem resetFlag_trig (s : State) :
    (resetFlag s).2.trig = s.trig := rfl
@[simp] theorem resetFlag_mpc (s : State) :
    (resetFlag s).2.mpc = s.mpc := rfl
@[simp] theorem resetFlag_active (s : State) :
    (resetFlag s).2.active = s.active := rfl
@[simp] theorem resetFlag_flags (s : State) :
    (resetFlag s).2.flags = s.flags := rfl
@[simp] theorem resetFlag_link (s : State) :
    (resetFlag s).2.link = s.link := rfl
@[simp] theorem resetFlag_dac (s : State) :
    (resetFlag s).2.dac = s.dac := rfl
@[simp] theorem resetFlag_run (s : State) :
    (resetFlag s).2.run = s.run := rfl
@[simp] theorem resetFlag_mem (s : State) :
    (resetFlag s).2.mem = s.mem := rfl
@[simp] theorem resetFlag_io (s : State) :
    (resetFlag s).2.io = s.io ++ [.resetFlag] := rfl
@[simp] theorem resetFlag_env (s : State) :
    (resetFlag s).2.env = { s.env with flag := s.env.flag.tail, calls := s.env.calls + 1 } := rfl
@[simp] theorem resetFlag_agenda (s : State) :
    (resetFlag s).2.agenda = s.agenda := rfl
@[simp] theorem resetFlag_turn (s : State) :
    (resetFlag s).2.turn = s.turn := rfl
@[simp] theorem resetFlag_resets (s : State) :
    (resetFlag s).2.resets = s.resets := rfl

/-! ### hard reset -/

@[simp] theorem hardReset_env (s : State) : (hardReset s).env = s.env := rfl
@[simp] theorem hardReset_agenda (s : State) : (hardReset s).agenda = s.agenda := rfl
@[simp] theorem hardReset_turn (s : State) : (hardReset s).turn = s.turn := rfl
@[simp] theorem hardReset_resets (s : State) : (hardReset s).resets = s.resets + 1 := rfl
@[simp] theorem hardReset_cfg (s : State) : (hardReset s).cfg = (State.initial s.cfg).cfg := rfl
@[simp] theorem hardReset_conf (s : State) : (hardReset s).conf = (State.initial s.cfg).conf := rfl
@[simp] theorem hardReset_trig (s : State) : (hardReset s).trig = (State.initial s.cfg).trig := rfl
@[simp] theorem hardReset_mpc (s : State) : (hardReset s).mpc = (State.initial s.cfg).mpc := rfl
@[simp] theorem hardReset_active (s : State) : (hardReset s).active = (State.initial s.cfg).active := rfl
@[simp] theorem hardReset_flags (s : State) : (hardReset s).flags = (State.initial s.cfg).flags := rfl
@[simp] theorem hardReset_link (s : State) : (hardReset s).link = (State.initial s.cfg).link := rfl
@[simp] theorem hardReset_dac (s : State) : (hardReset s).dac = (State.initial s.cfg).dac := rfl
@[simp] theorem hardReset_run (s : State) : (hardReset s).run = (State.initial s.cfg).run := rfl
@[simp] theorem hardReset_mem (s : State) : (hardReset s).mem = (State.initial s.cfg).mem := rfl
@[simp] theorem hardReset_io (s : State) : (hardReset s).io = (State.initial s.cfg).io := rfl

@[simp] theorem initial_cfg (c : Config) : (State.initial c).cfg = c := rfl
@[simp] theorem initial_conf (c : Config) : (State.initial c).conf = ConfigRegs.initial c := rfl
@[simp] theorem initial_mem (c : Config) : (State.initial c).mem = [] := rfl
@[simp] theorem initial_mpc (c : Config) : (State.initial c).mpc = .fetch := rfl
@[simp] theorem initial_active (c : Config) : (State.initial c).active = none := rfl
@[simp] theorem initial_run (c : Config) : (State.initial c).run = RunRegs.initial := rfl
@[simp] theorem initial_dac (c : Config) : (State.initial c).dac = List.replicate c.ndac.toNat 0 := rfl

/-! ### the flags a run starts with -/

@[simp] theorem clearRunFlags_ovr (f : Flags) : (clearRunFlags f).ovr = false := rfl
@[simp] theorem clearRunFlags_ovrErr (f : Flags) : (clearRunFlags f).ovrErr = false := rfl
@[simp] theorem clearRunFlags_toErr (f : Flags) : (clearRunFlags f).toErr = false := rfl
@[simp] theorem clearRunFlags_halt (f : Flags) : (clearRunFlags f).halt = f.halt := rfl
@[simp] theorem clearRunFlags_done (f : Flags) : (clearRunFlags f).done = false := rfl

end Sys2Proof.Machine
end

