-- ==== Sys2Proof/Laws/Memory.lean ====
section
/-! SUPPORT. Memory.lean: the buffer's laws (spec/20_memory.md R60): reading after writing, what a write leaves alone,
and that every memory operation keeps the canonical form. -/

namespace Sys2Proof.Machine

/-! ### bytes of a word -/

theorem u16_getLsbD (lo hi : Byte) (i : Nat) :
    (u16 lo hi).getLsbD i = if i < 8 then lo.getLsbD i else hi.getLsbD (i - 8) := by
  have h := BitVec.getLsbD_append (x := hi) (y := lo) (i := i)
  cases hc : decide (i < 8) <;> simp_all [u16]

@[simp] theorem u16_lo_hi (w : Word) : u16 (loByte w) (hiByte w) = w := by
  apply BitVec.eq_of_getLsbD_eq
  intro i hi
  rw [u16_getLsbD]
  by_cases h : i < 8
  · simp [loByte, h]
  · have h1 : 8 + (i - 8) = i := by omega
    have h2 : i - 8 < 8 := by omega
    simp [hiByte, h, h1, h2]

@[simp] theorem loByte_u16 (lo hi : Byte) : loByte (u16 lo hi) = lo := by
  apply BitVec.eq_of_getLsbD_eq
  intro i h
  simp [loByte, u16_getLsbD, h]

@[simp] theorem hiByte_u16 (lo hi : Byte) : hiByte (u16 lo hi) = hi := by
  apply BitVec.eq_of_getLsbD_eq
  intro i h
  simp [hiByte, u16_getLsbD, h]

/-- The value of two link bytes: `lo + 256 · hi` (spec/30_encoding.md R95). -/
theorem u16_toNat (lo hi : Byte) : (u16 lo hi).toNat = lo.toNat + 256 * hi.toNat := by
  have h : (u16 lo hi).toNat = hi.toNat <<< 8 ||| lo.toNat := BitVec.toNat_append hi lo
  rw [h, ← Nat.shiftLeft_add_eq_or_of_lt lo.isLt]
  simp [Nat.shiftLeft_eq]
  omega

/-! ### the list of cells -/

@[simp] theorem Memory.find_nil (x : Nat) : Memory.find [] x = none := rfl

@[simp] theorem Memory.find_set_same (m : Memory) (x : Nat) (v : Byte) :
    Memory.find (Memory.set m x v) x = some v := by
  induction m with
  | nil => simp [Memory.set, Memory.find]
  | cons c r ih =>
    obtain ⟨a, b⟩ := c
    by_cases h1 : x < a
    · simp [Memory.set, Memory.find, h1]
    · by_cases h2 : x = a
      · simp [Memory.set, Memory.find, h2]
      · simp [Memory.set, Memory.find, h1, h2, ih]

theorem Memory.find_set_other (m : Memory) {x y : Nat} (v : Byte) (h : y ≠ x) :
    Memory.find (Memory.set m x v) y = Memory.find m y := by
  induction m with
  | nil => simp [Memory.set, Memory.find, h]
  | cons c r ih =>
    obtain ⟨a, b⟩ := c
    by_cases h1 : x < a
    · simp [Memory.set, Memory.find, h1, h]
    · by_cases h2 : x = a
      · subst h2
        simp [Memory.set, Memory.find, h]
      · simp [Memory.set, Memory.find, h1, h2, ih]

/-- The canonical form, said with the library's word for it. -/
theorem Memory.wf_iff (m : Memory) : Memory.wf m = true ↔ m.Pairwise (fun p q => p.1 < q.1) := by
  induction m with
  | nil => simp [Memory.wf]
  | cons c r ih =>
    cases r with
    | nil => simp [Memory.wf]
    | cons d r =>
      simp only [Memory.wf, Bool.and_eq_true, decide_eq_true_eq, ih, List.pairwise_cons,
        List.mem_cons, forall_eq_or_imp]
      constructor
      · rintro ⟨h, h2, h3⟩
        exact ⟨⟨h, fun e he => lt_trans h (h2 e he)⟩, h2, h3⟩
      · rintro ⟨⟨h, -⟩, h2, h3⟩
        exact ⟨h, h2, h3⟩

/-- The addresses a write can list: the written one and those listed before. -/
theorem Memory.mem_set {m : Memory} {x : Nat} {v : Byte} {c : Host.Cell} (h : c ∈ Memory.set m x v) :
    c = (x, v) ∨ c ∈ m := by
  induction m with
  | nil => simpa [Memory.set] using h
  | cons d r ih =>
    obtain ⟨a, b⟩ := d
    by_cases h1 : x < a
    · simpa [Memory.set, h1] using h
    · by_cases h2 : x = a
      · simp only [Memory.set, h2, lt_irrefl, if_false, if_true, List.mem_cons] at h
        rcases h with h | h
        · exact .inl (by rw [h, h2])
        · exact .inr (List.mem_cons_of_mem _ h)
      · simp only [Memory.set, h1, h2, if_false, List.mem_cons] at h
        rcases h with h | h
        · exact .inr (h ▸ List.mem_cons_self)
        · rcases ih h with h | h
          · exact .inl h
          · exact .inr (List.mem_cons_of_mem _ h)

/-- A write keeps the canonical form. -/
theorem Memory.set_wf {m : Memory} (x : Nat) (v : Byte) (h : Memory.wf m = true) :
    Memory.wf (Memory.set m x v) = true := by
  rw [Memory.wf_iff] at h ⊢
  induction m with
  | nil => simp [Memory.set]
  | cons c r ih =>
    obtain ⟨a, b⟩ := c
    rw [List.pairwise_cons] at h
    obtain ⟨h0, hr⟩ := h
    by_cases h1 : x < a
    · simp only [Memory.set, h1, if_true, List.pairwise_cons, List.mem_cons, forall_eq_or_imp]
      exact ⟨⟨trivial, fun e he => lt_trans h1 (h0 e he)⟩, h0, hr⟩
    · by_cases h2 : x = a
      · subst h2
        simpa [Memory.set] using ⟨fun p q he => h0 (p, q) he, hr⟩
      · simp only [Memory.set, h1, h2, if_false, List.pairwise_cons]
        refine ⟨fun e he => ?_, ih hr⟩
        rcases Memory.mem_set he with he | he
        · subst he
          show a < x
          omega
        · exact h0 e he

/-! ### words of the buffer -/

/-- What `MemWrite` answers when it answers a state: the index was in range and only `buff` changed. -/
theorem memWrite_ok {i : Nat} {v : Word} {s t : State} (h : memWrite i v s = .ok t) :
    i < s.cfg.bsize.toNat ∧
      t = { s with mem := Memory.set (Memory.set s.mem (2 * i) (loByte v)) (2 * i + 1) (hiByte v) } := by
  unfold memWrite at h
  split at h
  · exact ⟨by assumption, by simpa using h.symm⟩
  · cases h

/-- In range, `MemWrite` answers a state. -/
theorem memWrite_total {i : Nat} (v : Word) {s : State} (h : i < s.cfg.bsize.toNat) :
    memWrite i v s =
      .ok { s with mem := Memory.set (Memory.set s.mem (2 * i) (loByte v)) (2 * i + 1) (hiByte v) } := by
  simp [memWrite, h]

/-- A write changes no byte but the two of its word. -/
theorem memWrite_byteAt_other {i : Nat} {v : Word} {s t : State} (h : memWrite i v s = .ok t) {a : Nat}
    (h1 : a ≠ 2 * i) (h2 : a ≠ 2 * i + 1) : byteAt t a = byteAt s a := by
  obtain ⟨-, rfl⟩ := memWrite_ok h
  simp [byteAt, Memory.find_set_other _ _ h1, Memory.find_set_other _ _ h2]

/-- The word written is the word read. -/
theorem memWrite_wordAt_same {i : Nat} {v : Word} {s t : State} (h : memWrite i v s = .ok t) : wordAt t i = v := by
  obtain ⟨-, rfl⟩ := memWrite_ok h
  have h1 : (2 * i : Nat) ≠ 2 * i + 1 := by omega
  simp [wordAt, byteAt, Memory.find_set_other _ _ h1]

/-- Every other word is as it was. -/
theorem memWrite_wordAt_other {i j : Nat} {v : Word} {s t : State} (h : memWrite i v s = .ok t) (hj : j ≠ i) :
    wordAt t j = wordAt s j := by
  unfold wordAt
  rw [memWrite_byteAt_other h (by omega) (by omega), memWrite_byteAt_other h (by omega) (by omega)]

/-- A write keeps the canonical form. -/
theorem memWrite_wf {i : Nat} {v : Word} {s t : State} (h : memWrite i v s = .ok t) (hw : Memory.wf s.mem = true) :
    Memory.wf t.mem = true := by
  obtain ⟨-, rfl⟩ := memWrite_ok h
  exact Memory.set_wf _ _ (Memory.set_wf _ _ hw)

/-- A write lists no byte outside `buff`. -/
theorem memWrite_inside {i : Nat} {v : Word} {s t : State} (h : memWrite i v s = .ok t)
    (hin : ∀ c ∈ s.mem, c.1 < 2 * s.cfg.bsize.toNat) : ∀ c ∈ t.mem, c.1 < 2 * t.cfg.bsize.toNat := by
  obtain ⟨hi, rfl⟩ := memWrite_ok h
  intro c hc
  show c.1 < 2 * s.cfg.bsize.toNat
  rcases Memory.mem_set hc with hc | hc
  · subst hc
    show 2 * i + 1 < _
    omega
  · rcases Memory.mem_set hc with hc | hc
    · subst hc
      show 2 * i < _
      omega
    · exact hin c hc

/-- What `MemRead` answers. -/
theorem memRead_ok {i : Nat} {s : State} {v : Word} (h : memRead i s = .ok v) :
    i < s.cfg.bsize.toNat ∧ v = wordAt s i := by
  unfold memRead at h
  split at h
  · exact ⟨by assumption, by simpa using h.symm⟩
  · cases h

theorem memRead_total {i : Nat} {s : State} (h : i < s.cfg.bsize.toNat) : memRead i s = .ok (wordAt s i) := by
  simp [memRead, h]

/-- Everything a run of stores does: only `buff` changes; the words land at consecutive indices; every byte outside
them, the canonical form and the bounds stay. -/
theorem memWriteAll_ok {data : List Word} {i : Nat} {s t : State} (h : memWriteAll i data s = .ok t) :
    t = { s with mem := t.mem } ∧
      (∀ j (hj : j < data.length), wordAt t (i + j) = data[j]) ∧
      (∀ a, a < 2 * i ∨ 2 * (i + data.length) ≤ a → byteAt t a = byteAt s a) ∧
      (Memory.wf s.mem = true → Memory.wf t.mem = true) ∧
      ((∀ c ∈ s.mem, c.1 < 2 * s.cfg.bsize.toNat) → ∀ c ∈ t.mem, c.1 < 2 * t.cfg.bsize.toNat) := by
  induction data generalizing i s with
  | nil =>
    simp only [memWriteAll, Except.ok.injEq] at h
    subst h
    exact ⟨rfl, fun j hj => absurd hj (by simp), fun _ _ => rfl, id, id⟩
  | cons v r ih =>
    unfold memWriteAll at h
    split at h
    · rename_i u hu
      obtain ⟨h1, h2, h3, h4, h5⟩ := ih h
      obtain ⟨hi, hu'⟩ := memWrite_ok hu
      refine ⟨?_, ?_, ?_, fun hw => h4 (memWrite_wf hu hw), fun hin => h5 (memWrite_inside hu hin)⟩
      · rw [h1, hu']
      · intro j hj
        cases j with
        | zero =>
          have e : wordAt t i = wordAt u i := by
            unfold wordAt
            rw [h3 _ (.inl (by omega)), h3 _ (.inl (by omega))]
          simpa [e] using memWrite_wordAt_same hu
        | succ j =>
          have := h2 j (by simpa using hj)
          rw [show i + (j + 1) = i + 1 + j by omega]
          simpa using this
      · intro a ha
        have hl : (v :: r).length = r.length + 1 := rfl
        rw [hl] at ha
        rw [h3 a (by omega), memWrite_byteAt_other hu (by omega) (by omega)]
    · cases h

/-- Within the capacity, a run of stores answers a state. -/
theorem memWriteAll_total {data : List Word} {i : Nat} {s : State} (h : i + data.length ≤ s.cfg.bsize.toNat) :
    ∃ t, memWriteAll i data s = .ok t := by
  induction data generalizing i s with
  | nil => exact ⟨s, rfl⟩
  | cons v r ih =>
    have hl : (v :: r).length = r.length + 1 := rfl
    rw [hl] at h
    have hw := memWrite_total (i := i) v (s := s) (by omega)
    obtain ⟨t, ht⟩ := ih (i := i + 1)
      (s := { s with mem := Memory.set (Memory.set s.mem (2 * i) (loByte v)) (2 * i + 1) (hiByte v) })
      (by show _ ≤ s.cfg.bsize.toNat; omega)
    exact ⟨t, by simp only [memWriteAll, hw, ht]⟩

end Sys2Proof.Machine
end

