-- ==== Sys2Proof/Laws/Decode.lean ====
section
/-! SUPPORT. Decode.lean: the frame codec's byte side (spec/30_encoding.md R93 to R103): a command is found by its own
code, and the fields read back what the encoder wrote. -/

namespace Sys2Proof

open Machine

theorem Cmd.mem_all (c : Cmd) : c ∈ Cmd.all := by
  cases c <;> decide

/-- With distinct codes a command's code finds that command (R96). -/
theorem Codes.find_of {k : Codes} (h : k.Distinct) (c : Cmd) : k.find (k.of c) = some c := by
  have hinj : ∀ a ∈ Cmd.all, ∀ b ∈ Cmd.all, k.of a = k.of b → a = b :=
    fun a ha b hb hab => List.inj_on_of_nodup_map h ha hb hab
  unfold Codes.find
  cases hf : Cmd.all.find? (fun d => k.of d == k.of c) with
  | none =>
    have := List.find?_eq_none.mp hf c (Cmd.mem_all c)
    simp at this
  | some d =>
    have hd := List.find?_some hf
    rw [hinj d (Cmd.mem_all d) c (Cmd.mem_all c) (by simpa using hd)]

/-- The command found has that code. -/
theorem Codes.of_find {k : Codes} {b : Byte} {c : Cmd} (h : k.find b = some c) : k.of c = b := by
  have := List.find?_some h
  simpa using this

/-- A byte finds no command exactly when it is none of the codes (R98). -/
theorem Codes.find_none {k : Codes} {b : Byte} : k.find b = none ↔ ∀ c, k.of c ≠ b := by
  unfold Codes.find
  rw [List.find?_eq_none]
  constructor
  · intro h c hc
    exact h c (Cmd.mem_all c) (by simpa using hc)
  · intro h c _ hc
    exact h c (by simpa using hc)

@[simp] theorem dataBytes_length (ws : List Word) : (dataBytes ws).length = 2 * ws.length := by
  induction ws with
  | nil => rfl
  | cons w r ih => simp [dataBytes, ih]; omega

@[simp] theorem wordsOf_dataBytes (ws : List Word) : wordsOf (dataBytes ws) = ws := by
  induction ws with
  | nil => rfl
  | cons w r ih => simp [dataBytes, wordsOf, ih]

/-- A decimal in range survives its biased fields (R124, R125). -/
theorem decOf_fields {d : Dec} (h : d.encodable = true) : decOf (expByte d) (manWord d) = d := by
  obtain ⟨m, e⟩ := d
  simp only [Dec.encodable, Bool.and_eq_true, decide_eq_true_eq] at h
  obtain ⟨⟨⟨h1, h2⟩, h3⟩, h4⟩ := h
  simp only [decOf, expByte, manWord, BitVec.toNat_ofInt, Dec.mk.injEq]
  constructor <;> omega

/-- Every pair of biased fields is the encoding of the decimal it decodes to. -/
theorem fields_decOf (x : Byte) (w : Word) :
    expByte (decOf x w) = x ∧ manWord (decOf x w) = w ∧ (decOf x w).encodable = true := by
  have hx := x.isLt
  have hw := w.isLt
  refine ⟨?_, ?_, ?_⟩
  · apply BitVec.eq_of_toNat_eq
    simp only [expByte, decOf, BitVec.toNat_ofInt]
    omega
  · apply BitVec.eq_of_toNat_eq
    simp only [manWord, decOf, BitVec.toNat_ofInt]
    omega
  · have h1 : -20000 ≤ (w.toNat : Int) - 20000 := by omega
    have h2 : (w.toNat : Int) - 20000 ≤ 45535 := by omega
    have h3 : -128 ≤ (x.toNat : Int) - 128 := by omega
    have h4 : (x.toNat : Int) - 128 ≤ 127 := by omega
    simp only [Dec.encodable, decOf, h1, h2, h3, h4, decide_true, Bool.and_self]

end Sys2Proof
end

