-- ==== Sys2Proof/Laws/Link.lean ====
section
/-! SUPPORT. Link.lean: what the codec's operations on the link do, said once each: bytes sent and the send checksum
(spec/40_codec_dispatch.md R121 to R129), bytes taken and the receive checksum (R120, R127, R130). -/

namespace Sys2Proof.Machine

/-! ### checksums -/

@[simp] theorem xorBytes_nil : xorBytes [] = 0 := rfl

@[simp] theorem xorBytes_cons (b : Byte) (r : List Byte) : xorBytes (b :: r) = b ^^^ xorBytes r := rfl

@[simp] theorem xorBytes_append (a b : List Byte) : xorBytes (a ++ b) = xorBytes a ^^^ xorBytes b := by
  induction a with
  | nil => simp
  | cons c r ih => simp [ih, BitVec.xor_assoc]

/-! ### sending -/

/-- Sending bytes appends them to `TX` and folds them into `CRCTX`, and changes nothing else. -/
theorem putBytes_eq (bs : List Byte) (s : State) :
    putBytes bs s =
      { s with link := { s.link with tx := s.link.tx ++ bs, crcTx := s.link.crcTx ^^^ xorBytes bs } } := by
  induction bs generalizing s with
  | nil => simp [putBytes]
  | cons b r ih => simp [putBytes, ih, putByte, BitVec.xor_assoc]

theorem putByte_eq_putBytes (b : Byte) (s : State) : putByte b s = putBytes [b] s := rfl

theorem putU16_eq_putBytes (w : Word) (s : State) : putU16 w s = putBytes (wordBytes w) s := rfl

theorem putDec_eq_putBytes (d : Dec) (s : State) : putDec d s = putBytes (decBytes d) s := rfl

theorem putBytes_append (a b : List Byte) (s : State) : putBytes b (putBytes a s) = putBytes (a ++ b) s := by
  simp [putBytes_eq, BitVec.xor_assoc]

/-- A payload and its checksum, sent from a zero send checksum, are a reply frame (R92). -/
theorem putChecksum_putBytes {s : State} (h : s.link.crcTx = 0) (payload : List Byte) :
    putChecksum (putBytes payload s) = reply payload s := by
  simp [putBytes_eq, putChecksum, putByte, reply, h]

theorem replyAck_eq {s : State} (h : s.link.crcTx = 0) : replyAck s = reply [s.cfg.ack] s := by
  rw [← putChecksum_putBytes h]; rfl

theorem replyStatus_eq {s : State} (h : s.link.crcTx = 0) (st : Byte) : replyStatus st s = reply [st] s := by
  rw [← putChecksum_putBytes h]; rfl

theorem raise_eq {s : State} (h : s.link.crcTx = 0) (code : Byte) :
    raise code s = { reply [code] s with mpc := .fetch } := by
  rw [← putChecksum_putBytes h]; rfl

/-! ### the receive-check -/

theorem rxCheck_pass {chk : Byte} {s : State} (h : chk = s.link.crcRx) (f : State → Result) :
    rxCheck chk s f = f s := by
  simp [rxCheck, h]

theorem rxCheck_fail {chk : Byte} {s : State} (h : chk ≠ s.link.crcRx) (f : State → Result) :
    rxCheck chk s f = .next (raiseChecksumError s) := by
  simp [rxCheck, h]

/-- A handler's next state comes from the handler or is the reply of a failed receive-check. -/
theorem rxCheck_next {chk : Byte} {s t : State} {f : State → Result} (h : rxCheck chk s f = .next t) :
    (chk = s.link.crcRx ∧ f s = .next t) ∨ (chk ≠ s.link.crcRx ∧ t = raiseChecksumError s) := by
  unfold rxCheck at h
  split at h
  · exact .inl ⟨by assumption, h⟩
  · exact .inr ⟨by assumption, by simpa using h.symm⟩

/-! ### taking bytes -/

theorem getByte_cons {s : State} {b : Byte} {r : List Byte} (h : s.link.rx = b :: r) :
    getByte s = { s with link := { s.link with rx := r, crcRx := s.link.crcRx ^^^ b } } := by
  simp [getByte, h]

/-- Taking `n` bytes that are there removes them and folds them into `CRCRX`. -/
theorem getBytes_eq {n : Nat} {s : State} (h : n ≤ s.link.rx.length) :
    getBytes n s =
      { s with link := { s.link with
          rx := s.link.rx.drop n, crcRx := s.link.crcRx ^^^ xorBytes (s.link.rx.take n) } } := by
  induction n generalizing s with
  | zero => simp [getBytes]
  | succ n ih =>
    obtain ⟨b, r, hr⟩ : ∃ b r, s.link.rx = b :: r := by
      cases hx : s.link.rx with
      | nil => simp [hx] at h
      | cons b r => exact ⟨b, r, rfl⟩
    rw [getBytes, getByte_cons hr, ih]
    · simp [hr, BitVec.xor_assoc]
    · simp [hr] at h ⊢
      exact h

/-- The state a handler starts in: the frame is gone from `RX`, `CRCRX` is the XOR of all its bytes but the last,
`CRCTX` is 0 and `HALT` is cleared (R130, R132); nothing else has changed. -/
theorem acceptFrame_eq {n : Nat} {s : State} (h2 : 2 ≤ n) (h : n ≤ s.link.rx.length) :
    acceptFrame n s =
      { s with
        link := { s.link with
          rx := s.link.rx.drop n, crcRx := xorBytes (s.link.rx.take (n - 1)), crcTx := 0 }
        flags := { s.flags with halt := false } } := by
  obtain ⟨b, r, hr⟩ : ∃ b r, s.link.rx = b :: r := by
    cases hx : s.link.rx with
    | nil => simp [hx] at h; omega
    | cons b r => exact ⟨b, r, rfl⟩
  obtain ⟨m, rfl⟩ : ∃ m, n = m + 2 := ⟨n - 2, by omega⟩
  have hl : m ≤ r.length := by simp [hr] at h; omega
  simp only [acceptFrame, prologue, dropByte]
  rw [getByte_cons (s := { s with link := { s.link with crcRx := 0, crcTx := 0 } }) (b := b) (r := r) hr]
  rw [getBytes_eq (by simpa using hl)]
  simp [hr]

end Sys2Proof.Machine
end

