-- ==== Sys2Proof/Laws/Devices.lean ====
section
/-! SUPPORT. Devices.lean: counters that stay in their widths (spec/40_codec_dispatch.md R134) and the converters
(spec/60_exceptions.md R330, R331): for each operation, everything it can do when it answers, and when it answers. -/

namespace Sys2Proof.Machine

/-! ### counters -/

theorem narrow_ok {w n : Nat} {v : BitVec w} (h : narrow w n = .ok v) : n < 2 ^ w ∧ v.toNat = n := by
  unfold narrow at h
  split at h
  · rename_i hn
    simp only [Except.ok.injEq] at h
    exact ⟨hn, by rw [← h, BitVec.toNat_ofNat, Nat.mod_eq_of_lt hn]⟩
  · cases h

theorem narrow_total {w n : Nat} (h : n < 2 ^ w) : narrow w n = .ok (BitVec.ofNat w n) := by
  simp [narrow, h]

theorem increment_ok {w : Nat} {c v : BitVec w} (h : increment c = .ok v) : v.toNat = c.toNat + 1 :=
  (narrow_ok h).2

theorem increment_total {w : Nat} {c : BitVec w} (h : c.toNat + 1 < 2 ^ w) :
    increment c = .ok (BitVec.ofNat w (c.toNat + 1)) := narrow_total h

theorem decrement_ok {w : Nat} {c v : BitVec w} (h : decrement c = .ok v) : c ≠ 0 ∧ v = c - 1 := by
  unfold decrement at h
  split at h
  · cases h
  · exact ⟨by assumption, by simpa using h.symm⟩

theorem decrement_total {w : Nat} {c : BitVec w} (h : c ≠ 0) : decrement c = .ok (c - 1) := if_neg h

/-- A counter that is not 0 goes down by one exactly. -/
theorem toNat_sub_one {w : Nat} {c : BitVec w} (h : c ≠ 0) : (c - 1).toNat = c.toNat - 1 := by
  have h0 : c.toNat ≠ 0 := fun e => h (BitVec.eq_of_toNat_eq (by simpa using e))
  have hw : 1 < 2 ^ w := lt_of_le_of_lt (Nat.one_le_iff_ne_zero.mpr h0) c.isLt
  rw [BitVec.toNat_sub_of_le]
  · simp [BitVec.toNat_ofNat, Nat.mod_eq_of_lt hw]
  · rw [BitVec.le_def]
    simp [BitVec.toNat_ofNat, Nat.mod_eq_of_lt hw]
    omega

/-! ### analog outputs -/

/-- What `DacWrite` does when it answers: the register holds the word, and the event is recorded. -/
theorem dacWrite_ok {d : Nat} {v : Word} {s t : State} (h : dacWrite d v s = .ok t) :
    1 ≤ d ∧ d ≤ s.cfg.ndac.toNat ∧ t = { s with dac := s.dac.set (d - 1) v, io := s.io ++ [.dac d v] } := by
  unfold dacWrite at h
  split at h
  · rename_i hd
    exact ⟨hd.1, hd.2, by simpa [emit] using h.symm⟩
  · cases h

theorem dacWrite_total {d : Nat} (v : Word) {s : State} (h1 : 1 ≤ d) (h2 : d ≤ s.cfg.ndac.toNat) :
    dacWrite d v s = .ok { s with dac := s.dac.set (d - 1) v, io := s.io ++ [.dac d v] } := by
  simp [dacWrite, h1, h2, emit]

/-- What `DacWrite` to a list of outputs does when it answers: only the outputs and the event history change. -/
theorem dacWriteAll_ok {v : Word} {ds : List Nat} {s t : State} (h : dacWriteAll v ds s = .ok t) :
    t = { s with dac := t.dac, io := s.io ++ ds.map (fun d => .dac d v) } ∧ t.dac.length = s.dac.length := by
  induction ds generalizing s with
  | nil =>
    simp only [dacWriteAll, Except.ok.injEq] at h
    subst h
    simp
  | cons d r ih =>
    unfold dacWriteAll at h
    split at h
    · rename_i u hu
      obtain ⟨-, -, hu'⟩ := dacWrite_ok hu
      obtain ⟨h1, h2⟩ := ih h
      refine ⟨?_, ?_⟩
      · rw [h1, hu']
        simp
      · rw [h2, hu']
        simp
    · cases h

theorem dacWriteAll_total {v : Word} {ds : List Nat} {s : State} (h : ∀ d ∈ ds, 1 ≤ d ∧ d ≤ s.cfg.ndac.toNat) :
    ∃ t, dacWriteAll v ds s = .ok t := by
  induction ds generalizing s with
  | nil => exact ⟨s, rfl⟩
  | cons d r ih =>
    obtain ⟨h1, h2⟩ := h d List.mem_cons_self
    have hw := dacWrite_total v (s := s) h1 h2
    obtain ⟨t, ht⟩ := ih (s := { s with dac := s.dac.set (d - 1) v, io := s.io ++ [.dac d v] })
      (fun e he => h e (List.mem_cons_of_mem _ he))
    exact ⟨t, by simp only [dacWriteAll, hw, ht]⟩

/-! ### analog inputs -/

/-- What `AdcRead` does when it answers: the next answer of the environment, the request recorded. -/
theorem adcRead_ok {c : Nat} {s t : State} {v : Word} (h : adcRead c s = .ok (v, t)) :
    1 ≤ c ∧ c ≤ s.cfg.nadc.toNat ∧ v = s.env.adc.headD (Config.freeAdc s.env.calls c) ∧
      t = { s with
        io := s.io ++ [.adcRead c]
        env := { s.env with adc := s.env.adc.tail, calls := s.env.calls + 1 } } := by
  unfold adcRead at h
  split at h
  · rename_i hc
    simp only [Except.ok.injEq, Prod.mk.injEq] at h
    exact ⟨hc.1, hc.2, h.1.symm, h.2.symm⟩
  · cases h

theorem adcRead_total {c : Nat} {s : State} (h1 : 1 ≤ c) (h2 : c ≤ s.cfg.nadc.toNat) :
    adcRead c s = .ok (s.env.adc.headD (Config.freeAdc s.env.calls c),
      { s with
        io := s.io ++ [.adcRead c]
        env := { s.env with adc := s.env.adc.tail, calls := s.env.calls + 1 } }) := by
  simp [adcRead, h1, h2, emit]

/-! ### the settled outcome -/

theorem settle_next {e : Except Fault State} {t : State} (h : settle e = .next t) : e = .ok t := by
  cases e with
  | ok s => simpa [settle] using h
  | error f => cases h

@[simp] theorem settle_ok (s : State) : settle (.ok s) = .next s := rfl

end Sys2Proof.Machine
end

