-- ==== Sys2Proof/Laws/PerInstr.lean ====
section
/-! SUPPORT. PerInstr.lean: statements about an instruction as syntax, one lemma per constructor. -/

namespace Sys2Proof.Laws

/-- The words a load carries after its size field. -/
def dataWords : Instr → List Word
  | .loadp data _ => data
  | .loads data _ => data
  | _ => []

/-- The frame of an instruction has its format's byte count, and two bytes more per data word
(spec/30_encoding.md R93, R101). -/
def EncodeLength.Statement (i : Instr) : Prop :=
  ∀ k : Codes, (encode k i).length = i.cmd.format.length + 2 * (dataWords i).length

/-- The operand reader of a well-formed instruction's command reads the instruction back from its parameter bytes and
checksum byte (R93, R95). -/
def ReadBack.Statement (i : Instr) : Prop := i.wf = true → readOperands (i.params ++ [i.chk]) i.cmd = some i

/-- The operands of format `QV` read back what the encoder wrote. -/
theorem readQV_data {data : List Word} (h : data.length ≤ 65535) (chk : Byte) :
    readQV (wordBytes (BitVec.ofNat 16 data.length) ++ dataBytes data ++ [chk]) = some (data, chk) := by
  have e : (BitVec.ofNat 16 data.length).toNat = data.length := by
    rw [BitVec.toNat_ofNat]
    exact Nat.mod_eq_of_lt (by omega)
  simp [readQV, wordBytes, e]

theorem EncodeLength.fwstr (chk : Byte) : EncodeLength.Statement (.fwstr chk) :=
  fun _ => rfl

theorem EncodeLength.magicq (chk : Byte) : EncodeLength.Statement (.magicq chk) :=
  fun _ => rfl

theorem EncodeLength.caps (chk : Byte) : EncodeLength.Statement (.caps chk) :=
  fun _ => rfl

theorem EncodeLength.pins (chk : Byte) : EncodeLength.Statement (.pins chk) :=
  fun _ => rfl

theorem EncodeLength.anard (b : Byte) (chk : Byte) : EncodeLength.Statement (.anard b chk) :=
  fun _ => rfl

theorem EncodeLength.anawr (b : Byte) (w : Word) (chk : Byte) : EncodeLength.Statement (.anawr b w chk) :=
  fun _ => rfl

theorem EncodeLength.setper (d : Dec) (chk : Byte) : EncodeLength.Statement (.setper d chk) :=
  fun _ => rfl

theorem EncodeLength.setsto (a : Byte) (b : Byte) (w : Word) (chk : Byte) : EncodeLength.Statement (.setsto a b w chk) :=
  fun _ => rfl

theorem EncodeLength.asyncrd (chk : Byte) : EncodeLength.Statement (.asyncrd chk) :=
  fun _ => rfl

theorem EncodeLength.trigrd (w : Word) (a : Byte) (b : Byte) (chk : Byte) : EncodeLength.Statement (.trigrd w a b chk) :=
  fun _ => rfl

theorem EncodeLength.steprsp (w : Word) (chk : Byte) : EncodeLength.Statement (.steprsp w chk) :=
  fun _ => rfl

theorem EncodeLength.loadp (data : List Word) (chk : Byte) : EncodeLength.Statement (.loadp data chk) := by
  intro k
  simp [encode, Instr.body, Instr.params, Instr.cmd, Instr.chk, Cmd.format, Format.length, dataWords, wordBytes]
  omega

theorem EncodeLength.loads (data : List Word) (chk : Byte) : EncodeLength.Statement (.loads data chk) := by
  intro k
  simp [encode, Instr.body, Instr.params, Instr.cmd, Instr.chk, Cmd.format, Format.length, dataWords, wordBytes]
  omega

theorem EncodeLength.wresp (w : Word) (chk : Byte) : EncodeLength.Statement (.wresp w chk) :=
  fun _ => rfl

theorem EncodeLength.dwresp (w : Word) (chk : Byte) : EncodeLength.Statement (.dwresp w chk) :=
  fun _ => rfl

theorem EncodeLength.swresp (b : Byte) (w : Word) (chk : Byte) : EncodeLength.Statement (.swresp b w chk) :=
  fun _ => rfl

theorem EncodeLength.wplay (w : Word) (chk : Byte) : EncodeLength.Statement (.wplay w chk) :=
  fun _ => rfl

theorem EncodeLength.dwplay (w : Word) (chk : Byte) : EncodeLength.Statement (.dwplay w chk) :=
  fun _ => rfl

theorem EncodeLength.diomode (a : Byte) (b : Byte) (chk : Byte) : EncodeLength.Statement (.diomode a b chk) :=
  fun _ => rfl

theorem EncodeLength.diowr (a : Byte) (b : Byte) (chk : Byte) : EncodeLength.Statement (.diowr a b chk) :=
  fun _ => rfl

theorem EncodeLength.diord (b : Byte) (chk : Byte) : EncodeLength.Statement (.diord b chk) :=
  fun _ => rfl

theorem EncodeLength.setnavg (w : Word) (chk : Byte) : EncodeLength.Statement (.setnavg w chk) :=
  fun _ => rfl

theorem EncodeLength.softrst (chk : Byte) : EncodeLength.Statement (.softrst chk) :=
  fun _ => rfl

theorem ReadBack.fwstr (chk : Byte) : ReadBack.Statement (.fwstr chk) :=
  fun _ => rfl

theorem ReadBack.magicq (chk : Byte) : ReadBack.Statement (.magicq chk) :=
  fun _ => rfl

theorem ReadBack.caps (chk : Byte) : ReadBack.Statement (.caps chk) :=
  fun _ => rfl

theorem ReadBack.pins (chk : Byte) : ReadBack.Statement (.pins chk) :=
  fun _ => rfl

theorem ReadBack.anard (b : Byte) (chk : Byte) : ReadBack.Statement (.anard b chk) :=
  fun _ => rfl

theorem ReadBack.anawr (b : Byte) (w : Word) (chk : Byte) : ReadBack.Statement (.anawr b w chk) := by
  intro _
  simp [readOperands, Instr.params, Instr.cmd, Instr.chk, wordBytes, readQBW]

theorem ReadBack.setper (d : Dec) (chk : Byte) : ReadBack.Statement (.setper d chk) := by
  intro h
  have h' : d.encodable = true := by simpa [Instr.wf] using h
  simp [readOperands, Instr.params, Instr.cmd, Instr.chk, decBytes, wordBytes, readQD, decOf_fields h']

theorem ReadBack.setsto (a : Byte) (b : Byte) (w : Word) (chk : Byte) : ReadBack.Statement (.setsto a b w chk) := by
  intro _
  simp [readOperands, Instr.params, Instr.cmd, Instr.chk, wordBytes, readQS]

theorem ReadBack.asyncrd (chk : Byte) : ReadBack.Statement (.asyncrd chk) :=
  fun _ => rfl

theorem ReadBack.trigrd (w : Word) (a : Byte) (b : Byte) (chk : Byte) : ReadBack.Statement (.trigrd w a b chk) := by
  intro _
  simp [readOperands, Instr.params, Instr.cmd, Instr.chk, wordBytes, readQT]

theorem ReadBack.steprsp (w : Word) (chk : Byte) : ReadBack.Statement (.steprsp w chk) := by
  intro _
  simp [readOperands, Instr.params, Instr.cmd, Instr.chk, wordBytes, readQW]

theorem ReadBack.loadp (data : List Word) (chk : Byte) : ReadBack.Statement (.loadp data chk) := by
  intro h
  have h' : data.length ≤ 65535 := by simpa [Instr.wf] using h
  show (readQV (wordBytes (BitVec.ofNat 16 data.length) ++ dataBytes data ++ [chk])).map _ = _
  rw [readQV_data h' chk]
  rfl

theorem ReadBack.loads (data : List Word) (chk : Byte) : ReadBack.Statement (.loads data chk) := by
  intro h
  have h' : data.length ≤ 65535 := by simpa [Instr.wf] using h
  show (readQV (wordBytes (BitVec.ofNat 16 data.length) ++ dataBytes data ++ [chk])).map _ = _
  rw [readQV_data h' chk]
  rfl

theorem ReadBack.wresp (w : Word) (chk : Byte) : ReadBack.Statement (.wresp w chk) := by
  intro _
  simp [readOperands, Instr.params, Instr.cmd, Instr.chk, wordBytes, readQW]

theorem ReadBack.dwresp (w : Word) (chk : Byte) : ReadBack.Statement (.dwresp w chk) := by
  intro _
  simp [readOperands, Instr.params, Instr.cmd, Instr.chk, wordBytes, readQW]

theorem ReadBack.swresp (b : Byte) (w : Word) (chk : Byte) : ReadBack.Statement (.swresp b w chk) := by
  intro _
  simp [readOperands, Instr.params, Instr.cmd, Instr.chk, wordBytes, readQBW]

theorem ReadBack.wplay (w : Word) (chk : Byte) : ReadBack.Statement (.wplay w chk) := by
  intro _
  simp [readOperands, Instr.params, Instr.cmd, Instr.chk, wordBytes, readQW]

theorem ReadBack.dwplay (w : Word) (chk : Byte) : ReadBack.Statement (.dwplay w chk) := by
  intro _
  simp [readOperands, Instr.params, Instr.cmd, Instr.chk, wordBytes, readQW]

theorem ReadBack.diomode (a : Byte) (b : Byte) (chk : Byte) : ReadBack.Statement (.diomode a b chk) :=
  fun _ => rfl

theorem ReadBack.diowr (a : Byte) (b : Byte) (chk : Byte) : ReadBack.Statement (.diowr a b chk) :=
  fun _ => rfl

theorem ReadBack.diord (b : Byte) (chk : Byte) : ReadBack.Statement (.diord b chk) :=
  fun _ => rfl

theorem ReadBack.setnavg (w : Word) (chk : Byte) : ReadBack.Statement (.setnavg w chk) := by
  intro _
  simp [readOperands, Instr.params, Instr.cmd, Instr.chk, wordBytes, readQW]

theorem ReadBack.softrst (chk : Byte) : ReadBack.Statement (.softrst chk) :=
  fun _ => rfl

end Sys2Proof.Laws
end

