-- ==== Sys2Proof/Laws/Scheduler.lean ====
section
/-! SUPPORT. Scheduler.lean: what the operations shared by all runs do (spec/43_scheduler_run.md): the sampling of one
tick, the sample count, the capture reply, and run start. -/

namespace Sys2Proof.Machine

/-! ### sampling (R195) -/

/-- What sampling one channel does when it answers: the word lands at the cursor, the cursor goes up by one, and
nothing but the buffer, the cursor, the event history and the environment changes. -/
theorem storeInput_ok {c : Nat} {s t : State} {v : Word} (h : storeInput c s = .ok (v, t)) :
    1 ≤ c ∧ c ≤ s.cfg.nadc.toNat ∧ storeIndex s < s.cfg.bsize.toNat ∧
      v = s.env.adc.headD (Config.freeAdc s.env.calls c) ∧
      t = { s with
        run := { s.run with cur := t.run.cur }
        mem := t.mem
        io := s.io ++ [.adcRead c]
        env := { s.env with adc := s.env.adc.tail, calls := s.env.calls + 1 } } ∧
      t.run.cur.toNat = s.run.cur.toNat + 1 ∧
      wordAt t (storeIndex s) = v ∧
      (∀ a, a ≠ 2 * storeIndex s → a ≠ 2 * storeIndex s + 1 → byteAt t a = byteAt s a) ∧
      (Memory.wf s.mem = true → Memory.wf t.mem = true) ∧
      ((∀ c ∈ s.mem, c.1 < 2 * s.cfg.bsize.toNat) → ∀ c ∈ t.mem, c.1 < 2 * t.cfg.bsize.toNat) := by
  unfold storeInput at h
  split at h
  · cases h
  · rename_i v' u hu
    obtain ⟨h1, h2, h3, hu'⟩ := adcRead_ok hu
    split at h
    · cases h
    · rename_i w hw
      have hw' := memWrite_ok hw
      split at h
      · cases h
      · rename_i cur hcur
        have hc := increment_ok hcur
        simp only [Except.ok.injEq, Prod.mk.injEq] at h
        obtain ⟨rfl, rfl⟩ := h
        have hs : storeIndex u = storeIndex s := by rw [hu']; rfl
        refine ⟨h1, h2, ?_, h3, ?_, ?_, ?_, ?_, ?_, ?_⟩
        · have := hw'.1
          rw [hs, hu'] at this
          exact this
        · rw [hw'.2, hu']
        · rw [hc, hw'.2, hu']
        · have := memWrite_wordAt_same hw
          rw [hs] at this
          exact this
        · intro a ha1 ha2
          have := memWrite_byteAt_other hw (a := a) (by rw [hs]; exact ha1) (by rw [hs]; exact ha2)
          rw [hu'] at this
          exact this
        · intro hf
          show Memory.wf w.mem = true
          exact memWrite_wf hw (by rw [hu']; exact hf)
        · intro hf
          show ∀ c ∈ w.mem, c.1 < 2 * w.cfg.bsize.toNat
          exact memWrite_inside hw (by rw [hu']; exact hf)

/-- Sampling one channel answers when the channel exists, the cursor lies in `buff` and has room. -/
theorem storeInput_total {c : Nat} {s : State} (h1 : 1 ≤ c) (h2 : c ≤ s.cfg.nadc.toNat)
    (h3 : storeIndex s < s.cfg.bsize.toNat) (h4 : s.run.cur.toNat + 1 < 2 ^ 16) :
    ∃ v t, storeInput c s = .ok (v, t) := by
  obtain ⟨v, u, hu, hcfg, hidx, hrun⟩ :
      ∃ v u, adcRead c s = .ok (v, u) ∧ u.cfg = s.cfg ∧ storeIndex u = storeIndex s ∧ u.run = s.run :=
    ⟨_, _, adcRead_total h1 h2, rfl, rfl, rfl⟩
  obtain ⟨w, hw, hwrun⟩ : ∃ w, memWrite (storeIndex u) v u = .ok w ∧ w.run = u.run :=
    ⟨_, memWrite_total v (by rw [hidx, hcfg]; exact h3), rfl⟩
  have hinc := increment_total (c := w.run.cur) (by rw [hwrun, hrun]; exact h4)
  exact ⟨_, _, by simp only [storeInput, hu, hw, hinc]; rfl⟩

/-- What sampling a list of channels does when it answers: the words land at consecutive indices from the cursor on,
one event per channel, and nothing but the buffer, the cursor, the event history and the environment changes. -/
theorem storeChannels_ok {cs : List Nat} {s t : State} {vs : List Word} (h : storeChannels cs s = .ok (vs, t)) :
    t = { s with
      run := { s.run with cur := t.run.cur }
      mem := t.mem
      io := s.io ++ cs.map OutEvent.adcRead
      env := { s.env with adc := s.env.adc.drop cs.length, calls := s.env.calls + cs.length } } ∧
    t.run.cur.toNat = s.run.cur.toNat + cs.length ∧
    vs.length = cs.length ∧
    (∀ j (hj : j < vs.length), wordAt t (storeIndex s + j) = vs[j]) ∧
    (∀ j c, cs[j]? = some c → vs[j]? = some (s.env.adc.getD j (Config.freeAdc (s.env.calls + j) c))) ∧
    (∀ a, a < 2 * storeIndex s ∨ 2 * (storeIndex s + cs.length) ≤ a → byteAt t a = byteAt s a) ∧
    (Memory.wf s.mem = true → Memory.wf t.mem = true) ∧
    ((∀ c ∈ s.mem, c.1 < 2 * s.cfg.bsize.toNat) → ∀ c ∈ t.mem, c.1 < 2 * t.cfg.bsize.toNat) := by
  induction cs generalizing s vs with
  | nil =>
    simp only [storeChannels, Except.ok.injEq, Prod.mk.injEq] at h
    obtain ⟨rfl, rfl⟩ := h
    simp
  | cons c r ih =>
    unfold storeChannels at h
    split at h
    · cases h
    · rename_i v u hu
      split at h
      · cases h
      · rename_i ws w hw
        simp only [Except.ok.injEq, Prod.mk.injEq] at h
        obtain ⟨rfl, rfl⟩ := h
        obtain ⟨-, -, -, hv, hu', hcur, hword, hframe, hwf, hin⟩ := storeInput_ok hu
        obtain ⟨h1, h2, h3, h4, h5, h6, h7, h8⟩ := ih hw
        have hlen : (c :: r).length = r.length + 1 := rfl
        have hs : storeIndex u = storeIndex s + 1 := by
          have e : tbase u = tbase s := by rw [hu']; rfl
          show tbase u + u.run.cur.toNat = tbase s + s.run.cur.toNat + 1
          rw [e, hcur]
          omega
        refine ⟨?_, ?_, ?_, ?_, ?_, ?_, fun hf => h7 (hwf hf), fun hf => h8 (hin hf)⟩
        · rw [h1, hu']
          simp [Nat.add_comm, Nat.add_left_comm]
        · rw [h2, hcur, hlen]
          omega
        · simp [h3]
        · intro j hj
          cases j with
          | zero =>
            have e : wordAt w (storeIndex s) = wordAt u (storeIndex s) := by
              unfold wordAt
              rw [h6 _ (.inl (by rw [hs]; omega)), h6 _ (.inl (by rw [hs]; omega))]
            simpa [e] using hword
          | succ j =>
            have := h4 j (by simpa using hj)
            rw [hs] at this
            rw [show storeIndex s + (j + 1) = storeIndex s + 1 + j by omega]
            simpa using this
        · intro j d hj
          cases j with
          | zero =>
            simp only [List.getElem?_cons_zero, Option.some.injEq] at hj
            subst hj
            cases hq : s.env.adc <;> simp [hv, hq]
          | succ j =>
            have := h5 j d (by simpa using hj)
            rw [hu'] at this
            simp only [List.getElem?_cons_succ, this]
            cases hq : s.env.adc <;> simp [Nat.add_comm, Nat.add_left_comm]
        · intro a ha
          rw [hlen] at ha
          rw [h6 a (by rw [hs]; omega), hframe a (by omega) (by omega)]

/-- Sampling a list of channels answers when they exist, their words fit in `buff` and the cursor has room. -/
theorem storeChannels_total {cs : List Nat} {s : State} (h1 : ∀ c ∈ cs, 1 ≤ c ∧ c ≤ s.cfg.nadc.toNat)
    (h2 : storeIndex s + cs.length ≤ s.cfg.bsize.toNat) : ∃ vs t, storeChannels cs s = .ok (vs, t) := by
  induction cs generalizing s with
  | nil => exact ⟨[], s, rfl⟩
  | cons c r ih =>
    have hlen : (c :: r).length = r.length + 1 := rfl
    rw [hlen] at h2
    have hb := s.cfg.bsize.isLt
    have hcur : s.run.cur.toNat ≤ storeIndex s := Nat.le_add_left _ _
    obtain ⟨hc1, hc2⟩ := h1 c List.mem_cons_self
    obtain ⟨v, u, hu⟩ := storeInput_total hc1 hc2 (show storeIndex s < _ by omega) (by omega)
    obtain ⟨-, -, -, -, hu', hcu, -⟩ := storeInput_ok hu
    have hs : storeIndex u = storeIndex s + 1 := by
      have e : tbase u = tbase s := by rw [hu']; rfl
      show tbase u + u.run.cur.toNat = tbase s + s.run.cur.toNat + 1
      rw [e, hcu]
      omega
    have hcfg : u.cfg = s.cfg := by rw [hu']
    obtain ⟨vs, t, ht⟩ := ih (s := u) (by rw [hcfg]; exact fun e he => h1 e (List.mem_cons_of_mem _ he))
      (by rw [hs, hcfg]; omega)
    exact ⟨v :: vs, t, by simp only [storeChannels, hu, ht]⟩

@[simp] theorem inputChannels_length (s : State) : (inputChannels s).length = s.run.nchrun.toNat := by
  simp [inputChannels]

/-- The channels a tick samples exist when the run's channels lie in 1 to 4 and there are at least 4 inputs. -/
theorem inputChannels_exist {s : State} (h1 : s.run.nchrun.toNat ≤ 4) (h2 : 1 ≤ s.run.selch.toNat)
    (h3 : s.run.selch.toNat ≤ 4) (h4 : 4 ≤ s.cfg.nadc.toNat) :
    ∀ c ∈ inputChannels s, 1 ≤ c ∧ c ≤ s.cfg.nadc.toNat := by
  intro c hc
  simp only [inputChannels, List.mem_map, List.mem_range] at hc
  obtain ⟨i, hi, rfl⟩ := hc
  split <;> omega

/-! ### the sample count (R221) -/

/-- What counting a sample does when it answers: `SAMPLES` goes up by one, and at `NS` the kernel is detached. -/
theorem countSample_ok {s t : State} (h : countSample s = .ok t) :
    ∃ n : Word, n.toNat = s.run.samples.toNat + 1 ∧
      t = if n = s.conf.ns then detach { s with run := { s.run with samples := n } }
        else { s with run := { s.run with samples := n } } := by
  unfold countSample at h
  split at h
  · cases h
  · rename_i n hn
    exact ⟨n, increment_ok hn, by simpa using h.symm⟩

theorem countSample_total {s : State} (h : s.run.samples.toNat + 1 < 2 ^ 16) : ∃ t, countSample s = .ok t := by
  unfold countSample
  rw [increment_total h]
  exact ⟨_, rfl⟩

/-! ### the capture reply (R199) -/

/-- Sending words from the buffer appends their bytes, in order, and changes nothing but the link. -/
theorem sendWords_ok {is : List Nat} {s t : State} (h : sendWords is s = .ok t) :
    t = putBytes (is.flatMap fun i => wordBytes (wordAt s i)) s := by
  induction is generalizing s with
  | nil =>
    simp only [sendWords, Except.ok.injEq] at h
    simp [putBytes, ← h]
  | cons i r ih =>
    unfold sendWords at h
    split at h
    · rename_i v hv
      obtain ⟨-, rfl⟩ := memRead_ok hv
      rw [ih h, putU16_eq_putBytes, putBytes_append]
      rfl
    · cases h

theorem sendWords_total {is : List Nat} {s : State} (h : ∀ i ∈ is, i < s.cfg.bsize.toNat) :
    ∃ t, sendWords is s = .ok t := by
  induction is generalizing s with
  | nil => exact ⟨s, rfl⟩
  | cons i r ih =>
    have hr := memRead_total (h i List.mem_cons_self)
    obtain ⟨t, ht⟩ := ih (s := putU16 (wordAt s i) s) (fun j hj => h j (List.mem_cons_of_mem _ hj))
    exact ⟨t, by simp only [sendWords, hr, ht]⟩

/-- From a zero send checksum, a capture reply is the reply frame of its payload (R199). -/
theorem sendCapture_ok {st : Byte} {start : Nat} {s t : State} (hc : s.link.crcTx = 0)
    (h : sendCapture st start s = .ok t) : t = reply (capturePayload st start s) s := by
  have hh : sendHeader st s = putBytes ([st, BitVec.setWidth 8 s.run.nchrun, s.conf.ndig] ++ wordBytes s.conf.ns) s :=
    rfl
  unfold sendCapture at h
  rw [hh] at h
  split at h
  · rename_i u hu
    have := sendWords_ok hu
    rw [putBytes_append] at this
    simp only [Except.ok.injEq] at h
    rw [← h, this, ← putChecksum_putBytes hc]
    rfl
  · cases h

theorem sendCapture_total {st : Byte} {start : Nat} {s : State} (h : ∀ i ∈ drainIndices s start, i < s.cfg.bsize.toNat) :
    ∃ t, sendCapture st start s = .ok t := by
  obtain ⟨t, ht⟩ := sendWords_total (s := sendHeader st s) h
  exact ⟨putChecksum t, by simp only [sendCapture, ht]⟩

/-- Every index a capture reply reads lies in the run's part of the transient region. -/
theorem drainIndices_inside {s : State} {start : Nat} (hns : s.conf.ns ≠ 0) {i : Nat} (h : i ∈ drainIndices s start) :
    tbase s ≤ i ∧ i < tbase s + runWords s := by
  have h0 : 0 < s.conf.ns.toNat :=
    Nat.pos_of_ne_zero fun e => hns (BitVec.eq_of_toNat_eq (by simpa using e))
  simp only [drainIndices, List.mem_flatMap, List.mem_map, List.mem_range] at h
  obtain ⟨c, hc, j, -, rfl⟩ := h
  have hf := Nat.mod_lt (start + j) h0
  unfold slotIndex runWords
  have h1 : ((start + j) % s.conf.ns.toNat + 1) * s.run.nchrun.toNat ≤ s.conf.ns.toNat * s.run.nchrun.toNat :=
    Nat.mul_le_mul_right _ hf
  rw [Nat.add_mul, one_mul] at h1
  rw [Nat.mul_comm s.run.nchrun.toNat]
  omega

/-! ### run start (R194) -/

/-- What the run start of a capture command does: a refusal when the reservation does not fit, else the command's
registers over the common ones, and the kernel attached. -/
theorem startCapture_next {k : Kernel} {x : RunCmd} {nch : BitVec 3} {init : State → Except Fault State} {s t : State}
    (h : startCapture k x nch init s = .next t) :
    (reserveTransient nch.toNat s.conf.ns.toNat s = false ∧ t = raiseNack s) ∨
      (reserveTransient nch.toNat s.conf.ns.toNat s = true ∧
        ∃ u, init (runRegisters (some nch) s) = .ok u ∧ t = launch k x u) := by
  unfold startCapture at h
  split at h
  · rename_i hr
    split at h
    · rename_i u hu
      exact .inr ⟨hr, u, hu, by simpa using h.symm⟩
    · cases h
  · rename_i hr
    exact .inl ⟨by simpa using hr, by simpa using h.symm⟩

end Sys2Proof.Machine
end

