-- ==== Sys2Proof/Tests/Slice0.lean ====
section
/-! SUPPORT. Slice0.lean: the model's own tests. Frames, replies and end values are those of spec/95_test_vectors.md (the
vector is named) or are written out by hand from the tables of spec/30_encoding.md. -/

namespace Sys2Proof.Tests

open Sys2Proof Sys2Proof.Machine

/-! ## Well-formedness: each check refuses its ill-formed term (R101, R124) -/

theorem test_wf_refuses_large_mantissa : (Instr.setper ⟨45536, 0⟩ 0).wf = false := by decide
theorem test_wf_refuses_small_mantissa : (Instr.setper ⟨-20001, 0⟩ 0).wf = false := by decide
theorem test_wf_refuses_large_exponent : (Instr.setper ⟨1, 128⟩ 0).wf = false := by decide
theorem test_wf_refuses_small_exponent : (Instr.setper ⟨1, -129⟩ 0).wf = false := by decide
theorem test_wf_accepts_extreme_decimals :
    (Instr.setper ⟨45535, 127⟩ 0).wf = true ∧ (Instr.setper ⟨-20000, -128⟩ 0).wf = true := by decide
theorem test_wf_refuses_long_primary (c : Byte) : (Instr.loadp (List.replicate 65536 0) c).wf = false := by
  simp only [Instr.wf, List.length_replicate]; decide
theorem test_wf_refuses_long_secondary (c : Byte) : (Instr.loads (List.replicate 65536 0) c).wf = false := by
  simp only [Instr.wf, List.length_replicate]; decide
theorem test_wf_accepts_longest_load (c : Byte) : (Instr.loadp (List.replicate 65535 0) c).wf = true := by
  simp only [Instr.wf, List.length_replicate]; decide

/-! ## Decoding: every command's frame written out byte by byte (R93, R96) -/

/-- Decoding under the reference codes. -/
def dec (bytes : List Byte) : Decoded := decode Codes.reference bytes

theorem test_decode_fwstr : dec [0x46, 0x46] = .instr (.fwstr 0x46) 2 := by decide
theorem test_decode_magicq : dec [0x4D, 0x4D] = .instr (.magicq 0x4D) 2 := by decide
theorem test_decode_caps : dec [0x49, 0x49] = .instr (.caps 0x49) 2 := by decide
theorem test_decode_pins : dec [0x4C, 0x4C] = .instr (.pins 0x4C) 2 := by decide
theorem test_decode_anard : dec [0x41, 0x02, 0x43] = .instr (.anard 2 0x43) 3 := by decide
theorem test_decode_anawr : dec [0x44, 0x01, 0x34, 0x12, 0x63] = .instr (.anawr 1 0x1234 0x63) 5 := by decide
theorem test_decode_setper : dec [0x52, 0x7D, 0x21, 0x4E, 0x40] = .instr (.setper ⟨1, -3⟩ 0x40) 5 := by decide
theorem test_decode_setper_least : dec [0x52, 0x00, 0x00, 0x00, 0x52] = .instr (.setper ⟨-20000, -128⟩ 0x52) 5 := by
  decide
theorem test_decode_setsto : dec [0x53, 0x04, 0x01, 0x88, 0x13, 0xCD] = .instr (.setsto 4 1 5000 0xCD) 6 := by decide
theorem test_decode_asyncrd : dec [0x59, 0x59] = .instr (.asyncrd 0x59) 2 := by decide
theorem test_decode_trigrd : dec [0x47, 0x34, 0x12, 0x01, 0x05, 0x65] = .instr (.trigrd 0x1234 1 5 0x65) 6 := by decide
theorem test_decode_steprsp : dec [0x50, 0x34, 0x12, 0x76] = .instr (.steprsp 0x1234 0x76) 4 := by decide
theorem test_decode_loadp :
    dec [0x57, 0x02, 0x00, 0x64, 0x00, 0xC8, 0x01, 0xF8] = .instr (.loadp [100, 456] 0xF8) 8 := by decide
theorem test_decode_loads :
    dec [0x77, 0x01, 0x00, 0x34, 0x12, 0x50] = .instr (.loads [0x1234] 0x50) 6 := by decide
theorem test_decode_loadp_empty : dec [0x57, 0x00, 0x00, 0x57] = .instr (.loadp [] 0x57) 4 := by decide
theorem test_decode_wresp : dec [0x56, 0x01, 0x02, 0x55] = .instr (.wresp 0x0201 0x55) 4 := by decide
theorem test_decode_dwresp : dec [0x76, 0x01, 0x02, 0x75] = .instr (.dwresp 0x0201 0x75) 4 := by decide
theorem test_decode_swresp : dec [0x58, 0x03, 0x01, 0x02, 0x58] = .instr (.swresp 3 0x0201 0x58) 5 := by decide
theorem test_decode_wplay : dec [0x51, 0x01, 0x02, 0x52] = .instr (.wplay 0x0201 0x52) 4 := by decide
theorem test_decode_dwplay : dec [0x71, 0x01, 0x02, 0x72] = .instr (.dwplay 0x0201 0x72) 4 := by decide
theorem test_decode_diomode : dec [0x48, 0x01, 0x03, 0x4A] = .instr (.diomode 1 3 0x4A) 4 := by decide
theorem test_decode_diowr : dec [0x4A, 0x02, 0x01, 0x49] = .instr (.diowr 2 1 0x49) 4 := by decide
theorem test_decode_diord : dec [0x4B, 0x02, 0x49] = .instr (.diord 2 0x49) 3 := by decide
theorem test_decode_setnavg : dec [0x4E, 0x10, 0x01, 0x5F] = .instr (.setnavg 0x0110 0x5F) 4 := by decide
theorem test_decode_softrst : dec [0x45, 0x45] = .instr (.softrst 0x45) 2 := by decide
/-- V-DSP-1, V-DSP-7, and a load whose data has not all arrived (R103). -/
theorem test_decode_rejects :
    dec [0x5A] = .unrecognised 0x5A ∧ dec [0x4D] = .incomplete ∧ dec [0x57, 0x01, 0x00, 0x05, 0x00] = .incomplete ∧
      dec [] = .incomplete := by decide

/-! ## One step of each command -/

/-- The block right after reset with a frame waiting and the main agent's step next. -/
def waiting (s : State) (bytes : List Byte) : State :=
  { s with link := { s.link with rx := bytes }, agenda := [.main] }

/-- A property of the next state, false where there is none. -/
def holds (r : Result) (p : State → Bool) : Bool :=
  match r with
  | .next t => p t
  | .fault _ => false
  | .refused _ => false

/-- One step on a frame, from reset. -/
def run (bytes : List Byte) (p : State → Bool) : Bool := holds (step (waiting State.reset bytes)) p

/-- The reference profile after reset with the tables of V-WAV-4: [1, 2] and [7, 8, 9]; two samples of two channels. -/
def tables : State :=
  { State.reset with
    conf := { State.reset.conf with nch := 2, ns := 2, ws := 2, ws2 := 3 }
    mem := [(0, 1), (1, 0), (2, 2), (3, 0), (4, 7), (5, 0), (6, 8), (7, 0), (8, 9), (9, 0)] }

/-- The run of a command in progress on those tables, the coming samples scripted. -/
def running (x : RunCmd) : State :=
  { tables with
    mpc := .poll x
    active := some (kernelOf x)
    agenda := [.tick]
    env := { tables.env with adc := [0x9000, 0x31, 0x7000, 0x32, 0x8001, 0x33] }
    run := { RunRegs.initial with nchrun := 2, pre := 1, wrep := 1 } }

theorem test_fwstr : run [0x46, 0x46] (fun t => t.link.tx == [0x53, 0x4C, 0x61, 0x62, 0x1C]) = true := by -- V-QIO-1
  decide
theorem test_magicq : run [0x4D, 0x4D] (fun t => t.link.tx == [0x38, 0x29, 0x12, 0x01, 0x02]) = true := by -- V-QIO-2
  decide
theorem test_caps : -- V-QIO-3
    holds (step { waiting State.reset [0x49, 0x49] with env := { State.reset.env with flag := [1] } }) (fun t =>
      t.link.tx == [0x02, 0x04, 0x20, 0x4E, 0x82, 0x21, 0x4E, 0x7B, 0x21, 0x4E, 0x7F, 0x41, 0x4E, 0x84, 0x24, 0x4E,
        0x7F, 0x41, 0x4E, 0x0C, 0x0C, 0x08, 0x01, 0x76]) = true := by decide
theorem test_pins : run [0x4C, 0x4C] (fun t => t.link.tx == [0x58, 0x7C, 0x59, 0x7D]) = true := by -- V-QIO-4
  decide
theorem test_anard : -- V-QIO-5
    holds (step { waiting State.reset [0x41, 0x02, 0x43] with env := { State.reset.env with analog := [0x1234] } })
      (fun t => t.link.tx == [0x34, 0x12, 0x26]) = true := by decide
theorem test_anard_refuses : run [0x41, 0x09, 0x48] (fun t => t.link.tx == [0xE2, 0xE2]) = true := by -- V-QIO-6
  decide
theorem test_anawr : -- V-QIO-7
    run [0x44, 0x01, 0x00, 0x80, 0xC5] (fun t => t.link.tx == [0xB5, 0xB5] && t.dac == [0x8000, 0]) = true := by
  decide
theorem test_setper : -- V-CFG-5: PMIN in another encoding, stored as received
    run [0x52, 0x7A, 0x2A, 0x4E, 0x4C] (fun t => t.link.tx == [0xB5, 0xB5] && t.conf.per == ⟨10, -6⟩) = true := by
  decide
theorem test_setper_refuses : -- V-CFG-8
    run [0x52, 0x80, 0x85, 0x4E, 0x19] (fun t => t.link.tx == [0xE2, 0xE2] && t.conf.per == ⟨1, -3⟩) = true := by
  decide
theorem test_setsto : -- V-CFG-13
    run [0x53, 0x04, 0x00, 0x88, 0x13, 0xCC] (fun t =>
      t.link.tx == [0xB5, 0xB5] && t.conf.nch == 4 && t.conf.ns == 5000) = true := by decide
theorem test_setsto_refuses : -- V-CFG-14
    run [0x53, 0x04, 0x00, 0x89, 0x13, 0xCD] (fun t => t.link.tx == [0xE2, 0xE2] && t.conf.ns == 1000) = true := by
  decide
theorem test_asyncrd : -- section 2.5, after the command step
    run [0x59, 0x59] (fun t => t.link.tx == [] && t.mpc == .poll .asyncrd && t.active == some .kAsync) = true := by
  decide
theorem test_asyncrd_checksum : -- V-DSP-4
    run [0x59, 0x58] (fun t => t.link.tx == [0x25, 0x25] && t.mpc == .fetch && t.active == none) = true := by
  decide
theorem test_trigrd : -- section 2.6: V-TRG-2's request with NS = 1000, PER = 1 ms
    run [0x47, 0x00, 0x40, 0x01, 0x01, 0x07] (fun t => t.trig == ⟨0x4000, .falling, 1000⟩ &&
      t.run.pre == 500 && t.run.post == 499) = true := by decide
theorem test_trigrd_refuses : run [0x47, 0x00, 0x80, 0x02, 0x00, 0xC5] (fun t => t.link.tx == [0xE2, 0xE2]) = true := by
  decide -- V-TRG-9
theorem test_steprsp : -- V-STEP-1's request, NS = 1000: STEPIDX = 1000 div 5
    run [0x50, 0x00, 0xC0, 0x90] (fun t => t.run.stepVal == 0xC000 && t.run.stepIdx == 200) = true := by decide
theorem test_loadp : -- V-WAV-3
    run [0x57, 0x03, 0x00, 0x0A, 0x00, 0x14, 0x00, 0x1E, 0x00, 0x54] (fun t => t.link.tx == [0xB5, 0xB5] &&
      t.conf.ws == 3 && t.mem == [(0, 10), (1, 0), (2, 20), (3, 0), (4, 30), (5, 0)]) = true := by decide
theorem test_loadp_corrupted : -- V-ALC-11, second load
    run [0x57, 0x02, 0x00, 0x09, 0x00, 0x08, 0x00, 0xAB] (fun t => t.link.tx == [0x25, 0x25] && t.conf.ws == 0 &&
      t.mem == [(0, 9), (1, 0), (2, 8), (3, 0)]) = true := by decide
theorem test_loads : -- V-WAV-4, over the primary table [1, 2]
    holds (step (waiting { tables with mem := [] } [0x77, 0x03, 0x00, 0x07, 0x00, 0x08, 0x00, 0x09, 0x00, 0x72]))
      (fun t => t.conf.ws == 2 && t.conf.ws2 == 3 &&
        t.mem == [(4, 7), (5, 0), (6, 8), (7, 0), (8, 9), (9, 0)]) = true := by decide
theorem test_wresp_empty_table : run [0x56, 0x01, 0x00, 0x57] (fun t => t.link.tx == [0xE2, 0xE2]) = true := by
  decide -- R264
theorem test_wresp : -- V-WAV-2's request
    holds (step (waiting tables [0x56, 0x01, 0x00, 0x57])) (fun t => t.active == some .kWresp && t.run.wrep == 1 &&
      t.run.nchrun == 2) = true := by decide
theorem test_dwresp : -- V-WAV-4's request
    holds (step (waiting tables [0x76, 0x00, 0x00, 0x76])) (fun t => t.active == some .kDwresp && t.run.wrep == 0) =
      true := by decide
theorem test_swresp : -- V-WAV-7
    holds (step (waiting tables [0x58, 0x03, 0x00, 0x00, 0x5B])) (fun t => t.active == some .kSwresp &&
      t.run.nchrun == 1 && t.run.selch == 3 && t.conf.nch == 2) = true := by decide
theorem test_swresp_refuses : -- V-WAV-11
    holds (step (waiting tables [0x58, 0x05, 0x00, 0x00, 0x5D])) (fun t => t.link.tx == [0xE2, 0xE2]) = true := by
  decide
theorem test_wplay : -- V-WAV-6: count 0 plays until halted
    holds (step (waiting tables [0x51, 0x00, 0x00, 0x51])) (fun t => t.active == some .kWplay && t.run.winf) = true := by
  decide
theorem test_dwplay : -- V-WAV-5
    holds (step (waiting tables [0x71, 0x02, 0x00, 0x73])) (fun t => t.active == some .kDwplay && t.run.wrep == 2 &&
      !t.run.winf) = true := by decide
theorem test_diomode : -- V-QIO-8, refused
    holds (step { waiting State.reset [0x48, 0x01, 0x03, 0x4A] with env := { State.reset.env with mode := [false] } })
      (fun t => t.link.tx == [0xE2, 0xE2] && t.io == [.digitalMode 1 3]) = true := by decide
theorem test_diowr : -- V-QIO-9
    run [0x4A, 0x02, 0x01, 0x49] (fun t => t.link.tx == [0xB5, 0xB5] && t.io == [.digitalWrite 2 1]) = true := by
  decide
theorem test_diord : -- V-QIO-10
    holds (step { waiting State.reset [0x4B, 0x02, 0x49] with env := { State.reset.env with digital := [1] } })
      (fun t => t.link.tx == [0xB5, 0x01, 0xB4]) = true := by decide
theorem test_setnavg : -- V-CFG-21
    run [0x4E, 0x00, 0x00, 0x4E] (fun t => t.link.tx == [0xB5, 0xB5] && t.conf.navg == 1) = true := by decide
theorem test_softrst : -- V-RST-3
    holds (step (waiting tables [0x45, 0x45])) (fun t => t.conf == ConfigRegs.initial Config.reference &&
      t.mem == tables.mem && t.io == [.dac 1 0, .dac 2 0, .softReset]) = true := by decide
theorem test_unrecognised : -- V-DSP-6, first command step
    run [0x5A, 0x4D, 0x4D] (fun t => t.link.tx == [0xE2, 0xE2] && t.link.rx == [0x4D, 0x4D]) = true := by decide
theorem test_incomplete : run [0x4D] (fun t => t.link.tx == [] && t.link.rx == [0x4D]) = true := by -- V-DSP-7
  decide
theorem test_placed_frame : -- the frame of R104 for MAGICQ, placed as a table word of two bytes
    holds (step (State.reset.withFetchWord 16 0x4D4D)) (fun t => t.link.tx == [0x38, 0x29, 0x12, 0x01, 0x02]) = true := by
  decide

/-! ## Ticks and polls of the runs -/

theorem test_tick_async : -- R195: sample-major in memory, from TBASE on
    holds (tickStep (running .asyncrd)) (fun t => wordAt t 5 == 0x9000 && wordAt t 6 == 0x31 && t.run.samples == 1 &&
      t.run.cur == 2 && t.flags.ovr && t.env.adc == [0x7000, 0x32, 0x8001, 0x33]) = true := by decide
theorem test_ticks_trigger : -- V-TRG-8 on the first of two channels
    holds (runEvents [.tick, .main, .tick, .main, .tick] { running .trigrd with
      trig := { level := 0x8000, edge := .rising, tocnt := 0 } }) (fun t => t.active == none && t.flags.done &&
      t.run.trigIdx == 0 && triggerStart t == 1 && !t.flags.toErr) = true := by decide
theorem test_tick_timeout_wins : -- V-TRG-11, third tick
    holds (runEvents [.tick, .main, .tick, .main, .tick] { running .trigrd with
      trig := { level := 0x8000, edge := .rising, tocnt := 3 } }) (fun t => t.active == none && t.flags.toErr &&
      t.run.phase == .armPost) = true := by decide
theorem test_tick_step_response : -- V-STEP-2: the output before the sample
    holds (tickStep { running .steprsp with run := { (running .steprsp).run with stepVal := 0x1234 } }) (fun t =>
      t.io == [.dac 1 0x1234, .adcRead 1, .adcRead 2]) = true := by decide
theorem test_tick_dual_response : -- V-WAV-4, first tick
    holds (tickStep { running .dwresp with run := { (running .dwresp).run with wrep := 0 } }) (fun t =>
      t.io == [.dac 1 1, .dac 2 7, .adcRead 1, .adcRead 2]) = true := by decide
theorem test_tick_selected_channel : -- V-WAV-7
    holds (tickStep { running .swresp with run := { (running .swresp).run with nchrun := 1, selch := 3, wrep := 0 } })
      (fun t => t.io == [.dac 1 1, .adcRead 3]) = true := by decide
theorem test_ticks_dual_play : -- V-WAV-8
    holds (runEvents [.tick, .main, .tick] (running .dwplay)) (fun t => t.active == none && t.run.wrep == 0 &&
      t.io == [.dac 1 1, .dac 2 7, .dac 1 2, .dac 2 8, .timerDetach]) = true := by decide
theorem test_tick_halted : -- P5: no work, status halted although an overrun stands recorded
    holds (runEvents [.halt, .tick, .main] { running .wplay with
      flags := { (running .wplay).flags with ovrErr := true } }) (fun t => t.link.tx == [3, 3] && t.io == [.timerDetach] &&
      t.mpc == .fetch && t.flags.halt) = true := by decide
theorem test_poll_replies_channel_major : -- V-ASY-8's order
    holds (runEvents [.tick, .main, .tick, .main] (running .asyncrd)) (fun t =>
      t.link.tx == [0x00, 0x02, 0x00, 0x02, 0x00, 0x00, 0x90, 0x00, 0x70, 0x31, 0x00, 0x32, 0x00, 0xE3]) = true := by
  decide
theorem test_overrun : -- V-ASY-2's schedule: no poll between two ticks
    holds (runEvents [.tick, .tick] (running .asyncrd)) (fun t => t.flags.ovrErr) = true := by decide
theorem test_timeout_ticks : -- V-TRG-12
    timeoutTicks Config.reference 2 ⟨3, -3⟩ = 666 ∧ timeoutTicks Config.reference 10 ⟨7, -4⟩ = 14285 ∧
      timeoutTicks Config.reference 255 ⟨1, -5⟩ = 25500000 ∧ timeoutTicks Config.reference 1 ⟨2, 0⟩ = 0 := by
  decide
theorem test_hard_reset : -- R56
    holds (eventStep .reset (running .trigrd)) (fun t => t.mpc == .fetch && t.active == none && t.mem == [] &&
      t.conf.ns == 1000 && t.run == RunRegs.initial && t.resets == 1) = true := by decide

/-! ## Witnesses: for each statement with hypotheses, states and operands that meet all of them together -/

theorem reference_legal : Config.reference.Legal := by
  constructor <;> first | decide | (unfold Codes.Distinct; decide)

theorem small_legal : Config.small.Legal := by
  constructor <;> first | decide | (unfold Codes.Distinct; decide)

/-- The invariant in an idle state with any bytes waiting. -/
theorem waiting_inv (bytes : List Byte) : (waiting State.reset bytes).Inv where
  legal := reference_legal
  nchLow := by show 1 ≤ State.reset.conf.nch.toNat; decide
  nchHigh := by show State.reset.conf.nch.toNat ≤ 4; decide
  ndig := rfl
  ns := by show State.reset.conf.ns ≠ 0; decide
  navg := by show State.reset.conf.navg ≠ 0; decide
  perSends := by show State.reset.conf.per.encodable = true; decide
  perLegal := fun _ => by show periodLegal State.reset.cfg State.reset.conf.per = true; decide
  spans := by show tbase State.reset ≤ State.reset.cfg.bsize.toNat; decide
  dacs := rfl
  memForm := rfl
  memInside := fun _ h => by cases h
  nchrunLow := by show 1 ≤ (1 : BitVec 3).toNat; decide
  nchrunHigh := by show (1 : BitVec 3).toNat ≤ 4; decide
  selchLow := by show 1 ≤ (1 : BitVec 3).toNat; decide
  selchHigh := by show (1 : BitVec 3).toNat ≤ 4; decide
  idle := fun _ => rfl
  polling := fun _ h => by cases h
  sendIdle := fun _ h => by cases h
  fits := fun _ h => by cases h
  ready := fun _ h => by cases h

/-- What `running` and `finished` share, for the invariant. -/
theorem tables_spans : tbase tables = 5 ∧ tables.dac.length = tables.cfg.ndac.toNat ∧ Memory.wf tables.mem = true ∧
    (∀ c ∈ tables.mem, c.1 < 2 * tables.cfg.bsize.toNat) := by decide

/-- The run of a command after its last tick, before the poll that ends it. -/
def finished (x : RunCmd) : State :=
  { running x with active := none, flags := { (running x).flags with ovr := true, done := true } }

theorem running_ready (x : RunCmd) : KernelReady (kernelOf x) (running x) := by
  cases x <;> simp only [KernelReady, kernelOf, CaptureReady, PrimaryReady, SecondaryReady, CyclesReady] <;> decide

theorem running_inv (x : RunCmd) : (running x).Inv where
  legal := reference_legal
  nchLow := by show 1 ≤ tables.conf.nch.toNat; decide
  nchHigh := by show tables.conf.nch.toNat ≤ 4; decide
  ndig := rfl
  ns := by show tables.conf.ns ≠ 0; decide
  navg := by show tables.conf.navg ≠ 0; decide
  perSends := by show tables.conf.per.encodable = true; decide
  perLegal := fun _ => by show periodLegal tables.cfg tables.conf.per = true; decide
  spans := by show tbase tables ≤ tables.cfg.bsize.toNat; decide
  dacs := tables_spans.2.1
  memForm := tables_spans.2.2.1
  memInside := tables_spans.2.2.2
  nchrunLow := by show 1 ≤ (2 : BitVec 3).toNat; decide
  nchrunHigh := by show (2 : BitVec 3).toNat ≤ 4; decide
  selchLow := by show 1 ≤ (1 : BitVec 3).toNat; decide
  selchHigh := by show (1 : BitVec 3).toNat ≤ 4; decide
  idle := fun h => by cases h
  polling := fun y h => by cases h; exact .inl ⟨rfl, rfl⟩
  sendIdle := fun _ _ => rfl
  fits := fun y h _ => by cases x <;> decide
  ready := fun k h => by cases h; exact running_ready x

theorem finished_inv (x : RunCmd) : (finished x).Inv :=
  { running_inv x with
    idle := fun _ => rfl
    polling := fun _ _ => .inr ⟨rfl, rfl⟩
    ready := fun _ h => by cases h }

/-- An idle state in which a handler with trailing byte 0x5A makes its receive-check. -/
def checked (s : State) : State := { s with link := { s.link with crcRx := 0x5A } }

theorem checked_accepts (s : State) (h : s.link.crcTx = 0) : Accepts 0x5A (checked s) := ⟨rfl, h⟩
theorem checked_rejects (s : State) (h : s.link.crcTx = 0) : Rejects 0x5B (checked s) := ⟨by simp [checked], h⟩

/-- Hypotheses of ResetMeetsInvariant. -/
theorem witness_reset_meets_invariant : Config.reference.Legal ∧ Config.small.Legal := ⟨reference_legal, small_legal⟩

/-- Hypotheses of StepKeepsInvariant, NoFaultFromInvariant, StepKeepsBufferFormAndParameters: every kernel's tick, and
the poll that ends each run. -/
theorem witness_step_keeps_invariant : (∀ x, (running x).Inv) ∧ (∀ x, ({ finished x with agenda := [.main] } : State).Inv) ∧
    (∀ x, ∃ t, step (running x) = .next t) ∧
    (∃ t, step { finished .asyncrd with agenda := [.main] } = .next t) ∧
    Memory.wf (running .asyncrd).mem = true :=
  ⟨running_inv, fun x => { finished_inv x with ready := fun _ h => by cases h }, fun x => by cases x <;> exact ⟨_, rfl⟩, ⟨_, rfl⟩, rfl⟩

/-- Hypotheses of ConfigurationChangesByCommandOnly: SETNAVG 16, and a reset. -/
theorem witness_configuration_changes :
    (∃ t, eventStep .main (waiting State.reset [0x4E, 0x10, 0x00, 0x5E]) = .next t ∧ t.conf ≠ State.reset.conf) ∧
    ∃ t, eventStep .reset tables = .next t ∧ t.conf ≠ tables.conf :=
  ⟨⟨_, rfl, by decide⟩, ⟨_, rfl, by decide⟩⟩

/-- Hypotheses of RunLeavesOperandsAlone and RunIgnoresHostBytes: a poll, a tick, a halt, a host byte. -/
theorem witness_run_steps : (running .wresp).mpc = .poll .wresp ∧
    (∃ t, eventStep .main (running .wresp) = .next t) ∧ (∃ t, eventStep .tick (running .wresp) = .next t) ∧
    (∃ t, eventStep .halt (running .wresp) = .next t) ∧ (∃ t, eventStep (.rx 0x59) (running .wresp) = .next t) :=
  ⟨rfl, ⟨_, rfl⟩, ⟨_, rfl⟩, ⟨_, rfl⟩, ⟨_, rfl⟩⟩

/-- Hypotheses of TickWritesItsFieldsOnly, with both flags already set. -/
theorem witness_tick_fields :
    let s := { finished .trigrd with active := some .kTrig, flags := ⟨true, true, true, false, true⟩ }
    s.active ≠ none ∧ s.flags.toErr = true ∧ s.flags.done = true ∧ ∃ t, eventStep .tick s = .next t :=
  ⟨by decide, rfl, rfl, _, rfl⟩

/-- Hypotheses of FlagWriters, each clause both ways: `HALT` by a halt edge and the dispatcher, `OVRERR` by a tick and
a poll, `TOERR` and `DONE` by a timing-out tick and a poll. -/
theorem witness_flag_writers :
    (∃ t, eventStep .halt tables = .next t ∧ t.flags.halt ≠ tables.flags.halt) ∧
    (∃ t, eventStep .main (haltStep (waiting tables [0x5A])) = .next t ∧ t.flags.halt ≠ true) ∧
    (∃ t, eventStep .tick (overrunHandshake (running .asyncrd)) = .next t ∧ t.flags.ovrErr ≠ false) ∧
    (∃ t, eventStep .main { finished .wplay with flags := ⟨true, true, true, false, true⟩ } = .next t ∧
      t.flags.ovrErr ≠ true ∧ t.flags.toErr ≠ true ∧ t.flags.done ≠ true) ∧
    (∃ t, eventStep .tick { running .trigrd with trig := ⟨0x8000, .rising, 1⟩ } = .next t ∧
      t.flags.toErr ≠ false ∧ t.flags.done ≠ false) :=
  ⟨⟨_, rfl, by decide⟩, ⟨_, rfl, by decide⟩, ⟨_, rfl, by decide⟩, ⟨_, rfl, by decide⟩, ⟨_, rfl, by decide⟩⟩

/-- Hypotheses of SequencerMoves: a run starts, a run ends, a reset. -/
theorem witness_sequencer_moves :
    (∃ t, eventStep .main (waiting State.reset [0x59, 0x59]) = .next t ∧ t.mpc ≠ .fetch) ∧
    (∃ t, eventStep .main (finished .wplay) = .next t ∧ t.mpc ≠ .poll .wplay) ∧
    (∃ t, eventStep .reset (running .wplay) = .next t ∧ t.mpc ≠ .poll .wplay) :=
  ⟨⟨_, rfl, by decide⟩, ⟨_, rfl, by decide⟩, ⟨_, rfl, by decide⟩⟩

/-- Hypotheses of DecodeOfEncode: the reference codes, extreme operands. -/
theorem witness_decode_of_encode : Codes.reference.Distinct ∧ (Instr.setper ⟨45535, 127⟩ 0).wf = true ∧
    (Instr.loads [] 0xFF).wf = true := by unfold Codes.Distinct; decide

/-- Hypotheses of EncodeOfDecode: bytes left over after the frame. -/
theorem witness_encode_of_decode :
    decode Codes.reference [0x77, 0x01, 0x00, 0x34, 0x12, 0x00, 0x59] = .instr (.loads [0x1234] 0x00) 6 := by decide

/-- Hypotheses of UnrecognisedByteAnswersNack: V-DSP-1. -/
theorem witness_unrecognised : (waiting State.reset [0x5A]).mpc = .fetch ∧
    (waiting State.reset [0x5A]).link.rx = 0x5A :: [] ∧
    ∀ c, (waiting State.reset [0x5A]).cfg.codes.of c ≠ 0x5A := ⟨rfl, rfl, by intro c; cases c <;> decide⟩

/-- Hypotheses of CorruptedByteIsDetected: the frame of SETSTO 1, 0, 5 with its command byte, an operand byte and its
checksum byte changed. -/
theorem witness_corrupted_byte : (Instr.setsto 1 0 5 0x57).chk = checksum Codes.reference (.setsto 1 0 5 0x57) ∧
    (∀ p b, (p, b) ∈ [(0, 0x47), (2, 0x01), (5, 0x56)] →
      p < (encode Codes.reference (.setsto 1 0 5 0x57)).length ∧
      (encode Codes.reference (.setsto 1 0 5 0x57))[p]? ≠ some b) ∧
    decode Codes.reference ((encode Codes.reference (.setsto 1 0 5 0x57)).set 0 0x47 ++ []) =
      .instr (.trigrd 1 5 0 0x57) 6 ∧
    decode Codes.reference ((encode Codes.reference (.setsto 1 0 5 0x57)).set 2 0x01 ++ []) =
      .instr (.setsto 1 1 5 0x57) 6 ∧
    decode Codes.reference ((encode Codes.reference (.setsto 1 0 5 0x57)).set 5 0x56 ++ []) =
      .instr (.setsto 1 0 5 0x56) 6 := by
  refine ⟨by decide, ?_, by decide, by decide, by decide⟩
  intro p b h
  simp only [List.mem_cons, Prod.mk.injEq, List.not_mem_nil, or_false] at h
  obtain ⟨rfl, rfl⟩ | ⟨rfl, rfl⟩ | ⟨rfl, rfl⟩ := h <;> decide

/-- Hypotheses of CorruptedByteIsDetected for the loads: a data byte of LOADP and of LOADS changed, and LOADP's command
byte into that of LOADS. -/
theorem witness_corrupted_load : (Instr.loadp [100, 456] 0xF8).chk = checksum Codes.reference (.loadp [100, 456] 0xF8) ∧
    (Instr.loads [0x1234] 0x50).chk = checksum Codes.reference (.loads [0x1234] 0x50) ∧
    decode Codes.reference ((encode Codes.reference (.loadp [100, 456] 0xF8)).set 3 0x65 ++ []) =
      .instr (.loadp [101, 456] 0xF8) 8 ∧
    decode Codes.reference ((encode Codes.reference (.loadp [100, 456] 0xF8)).set 0 0x77 ++ []) =
      .instr (.loads [100, 456] 0xF8) 8 ∧
    decode Codes.reference ((encode Codes.reference (.loads [0x1234] 0x50)).set 4 0x13 ++ []) =
      .instr (.loads [0x1334] 0x50) 6 ∧
    [101, 456].length ≤ Config.reference.bsize.toNat := by decide

/-- Hypotheses of StepRunsDecodedInstruction. -/
theorem witness_step_runs : nextEvent (waiting State.reset [0x45, 0x45]) = .main ∧
    (waiting State.reset [0x45, 0x45]).mpc = .fetch ∧
    decode (waiting State.reset [0x45, 0x45]).cfg.codes (waiting State.reset [0x45, 0x45]).link.rx =
      .instr (.softrst 0x45) 2 := ⟨rfl, rfl, by decide⟩

/-- Hypotheses of DecimalArithmeticIsExact and LegalPeriodBounds: both ends of the legal periods, and the examples of
R226: 2 s at 3 ms, 1 s at 2 s under both settings of `TIMEOUT_ZERO`. -/
theorem witness_periods : (1 : Int) ≤ (⟨1, -5⟩ : Dec).m ∧
    timeoutTicks Config.reference 2 ⟨3, -3⟩ = 666 ∧ timeoutTicks Config.reference 1 ⟨2, 0⟩ = 0 ∧
    timeoutTicks { Config.reference with timeoutZero := .immediate } 1 ⟨2, 0⟩ = 1 ∧ Config.reference.Legal ∧ Config.reference.arith = .exact ∧
    periodLegal Config.reference ⟨1, -5⟩ = true ∧ periodLegal Config.reference ⟨1, 2⟩ = true :=
  ⟨by decide, by decide, by decide, by decide, reference_legal, rfl, by decide, by decide⟩

/-- Hypotheses of BufferReadAfterWrite: the last index and the first one outside. -/
theorem witness_buffer : (0 : Nat) < State.reset.cfg.bsize.toNat ∧ 19999 < State.reset.cfg.bsize.toNat ∧
    State.reset.cfg.bsize.toNat ≤ 20000 := by decide

/-- Hypotheses of StatusPriority: all eight settings of the three flags are states. -/
theorem witness_status (halt toErr ovrErr : Bool) :
    ∃ s : State, s.flags.halt = halt ∧ s.flags.toErr = toErr ∧ s.flags.ovrErr = ovrErr :=
  ⟨{ tables with flags := ⟨false, ovrErr, toErr, halt, false⟩ }, rfl, rfl, rfl⟩

/-- Hypotheses of QueriesReply, SetAveragingClampsZero, SoftResetRestoresConfiguration. -/
theorem witness_accepts : Accepts 0x5A (checked tables) ∧ (0xFFFF : Word) ≠ 0 ∧
    (checked tables).dac.length = (checked tables).cfg.ndac.toNat := ⟨checked_accepts _ rfl, by decide, rfl⟩

/-- Hypotheses of AnalogReadReplies and AnalogWriteSetsOutput: first and last channel, 0, one past the last. -/
theorem witness_channels : Accepts 0x5A (checked tables) ∧ 1 ≤ (1 : Byte).toNat ∧ (4 : Byte) = tables.cfg.nadc ∧
    tables.cfg.nadc < 5 ∧ (2 : Byte) = tables.cfg.ndac ∧ tables.cfg.ndac < 3 :=
  ⟨checked_accepts _ rfl, by decide⟩

/-- Hypotheses of DigitalLinesReply: first and last line, one past the last. -/
theorem witness_lines : Accepts 0x5A (checked tables) ∧ 1 ≤ (1 : Byte).toNat ∧
    (8 : Byte).toNat ≤ tables.cfg.platform.ndio.toNat ∧ tables.cfg.platform.ndio < 9 :=
  ⟨checked_accepts _ rfl, by decide⟩

/-- Hypotheses of SetPeriodStoresLegalPair: PMIN in another encoding, PMAX, a zero period, and one above PMAX. -/
theorem witness_set_period : Accepts 0x5A (checked tables) ∧ (checked tables).cfg.arith = .exact ∧
    let value := fun d : Dec => (d.m : ℚ) * (10 : ℚ) ^ d.e
    (value tables.cfg.pmin ≤ value ⟨10, -6⟩ ∧ value ⟨10, -6⟩ ≤ value tables.cfg.pmax) ∧
    (value tables.cfg.pmin ≤ value ⟨1, 2⟩ ∧ value ⟨1, 2⟩ ≤ value tables.cfg.pmax) ∧
    value ⟨0, 0⟩ < value tables.cfg.pmin ∧ value tables.cfg.pmax < value ⟨101, 0⟩ := by
  refine ⟨checked_accepts _ rfl, rfl, ?_⟩
  simp only [tables, State.reset, State.initial, Config.reference]
  norm_num

/-- Hypotheses of SetStorageStoresFeasibleRequest: the whole free capacity, one word more, and each illegal field. -/
theorem witness_set_storage : Accepts 0x5A (checked State.reset) ∧
    tbase (checked State.reset) ≤ (checked State.reset).cfg.bsize.toNat ∧
    (4 : Byte).toNat * (5000 : Word).toNat ≤ tcap (checked State.reset) ∧
    tcap (checked State.reset) < (4 : Byte).toNat * (5001 : Word).toNat ∧ (4 : Nat) < (5 : Byte).toNat ∧
    (1 : Byte) ≠ 0 := ⟨checked_accepts _ rfl, by decide⟩

/-- The small profile with a primary table of 10 words and a secondary one of 4 (V-ALC-10). -/
def smallLoaded : State :=
  { State.initial Config.small with conf := { (State.initial Config.small).conf with ws := 10, ws2 := 4 } }

/-- Hypotheses of LoadPrimaryStoresTable, LoadSecondaryStoresTable, OversizeLoadsAreRefused, CorruptedLoadsClearTheirSpan:
the largest sizes that fit and the least that do not. -/
theorem witness_loads : Accepts 0x5A (checked smallLoaded) ∧ Rejects 0x5B (checked smallLoaded) ∧
    (List.replicate 16 (0 : Word)).length ≤ (checked smallLoaded).cfg.bsize.toNat ∧
    (List.replicate 6 (0 : Word)).length + (checked smallLoaded).conf.ws.toNat ≤ (checked smallLoaded).cfg.bsize.toNat ∧
    (checked smallLoaded).cfg.bsize.toNat < (List.replicate 17 (0 : Word)).length ∧
    (checked smallLoaded).cfg.bsize.toNat <
      (List.replicate 7 (0 : Word)).length + (checked smallLoaded).conf.ws.toNat :=
  ⟨checked_accepts _ rfl, checked_rejects _ rfl, by decide⟩

/-- Hypotheses of ChecksumErrorChangesNothing. -/
theorem witness_checksum_error : Rejects (Instr.trigrd 0 0 0 0x5B).chk (checked tables) ∧
    (Instr.trigrd 0 0 0 0x5B).cmd ≠ .loadp ∧ (Instr.trigrd 0 0 0 0x5B).cmd ≠ .loads :=
  ⟨checked_rejects _ rfl, by decide⟩

/-- Hypotheses of CaptureCommandsStartRuns: the two edge codes, the longest timeout, and a reservation that fills the
buffer exactly. -/
theorem witness_capture_start : Accepts 0x5A (checked tables) ∧
    tables.conf.nch.toNat * tables.conf.ns.toNat + tbase tables ≤ tables.cfg.bsize.toNat ∧
    (0 : Byte) = tables.cfg.edgeRising ∧ (1 : Byte) ≠ tables.cfg.edgeRising ∧ (1 : Byte) = tables.cfg.edgeFalling ∧
    timeoutTicks tables.cfg 255 tables.conf.per < 2 ^ 32 ∧
    (let s := { checked State.reset with conf := { State.reset.conf with ns := 20000 } }
     s.conf.nch.toNat * s.conf.ns.toNat + tbase s ≤ s.cfg.bsize.toNat) :=
  ⟨checked_accepts _ rfl, by decide⟩

/-- Hypotheses of WaveResponseCommandsStartRuns and WavePlayCommandsStartRuns: both tables loaded, channels 1 and 4. -/
theorem witness_wave_start : Accepts 0x5A (checked tables) ∧ tables.conf.ws ≠ 0 ∧ tables.conf.ws2 ≠ 0 ∧
    tables.conf.nch.toNat * tables.conf.ns.toNat + tbase tables ≤ tables.cfg.bsize.toNat ∧
    tables.conf.ns.toNat + tbase tables ≤ tables.cfg.bsize.toNat ∧ 1 ≤ (1 : Byte).toNat ∧ (4 : Byte).toNat ≤ 4 :=
  ⟨checked_accepts _ rfl, by decide⟩

/-- Hypotheses of RunCommandsRefuse: a reservation one word too large, an edge code of 2, channel 5, no table. -/
theorem witness_run_refused :
    (let s := checked { smallLoaded with conf := { smallLoaded.conf with ns := 3 } }
     Accepts 0x5A s ∧ s.cfg.bsize.toNat < s.conf.nch.toNat * s.conf.ns.toNat + tbase s ∧
       s.cfg.bsize.toNat < s.conf.ns.toNat + tbase s) ∧
    ((2 : Byte) ≠ tables.cfg.edgeRising ∧ (2 : Byte) ≠ tables.cfg.edgeFalling) ∧ (4 : Nat) < (5 : Byte).toNat ∧
    Accepts 0x5A (checked State.reset) ∧ (checked State.reset).conf.ws = 0 ∧ (checked State.reset).conf.ws2 = 0 :=
  ⟨⟨checked_accepts _ rfl, by decide⟩, by decide, by decide, checked_accepts _ rfl, rfl, rfl⟩

/-- Hypotheses of DefaultsAreRunnable. -/
theorem witness_defaults : (checked State.reset).cfg.Legal ∧
    (checked State.reset).conf = ConfigRegs.initial (checked State.reset).cfg ∧ Accepts 0x5A (checked State.reset) ∧
    (Instr.wresp 1 0x5A).chk = 0x5A ∧ (Instr.wresp 1 0x5A).cmd ∈ [Cmd.wresp, .dwresp, .swresp, .wplay, .dwplay] :=
  ⟨reference_legal, rfl, checked_accepts _ rfl, by decide⟩

/-- Hypotheses of ReservationsFit: an accepted SETSTO 1, 0, 5, and an ASYNCRD that starts its run. -/
theorem witness_reservations :
    (waiting State.reset [0x53, 0x01, 0x00, 0x05, 0x00, 0x57]).Inv ∧ (waiting State.reset [0x59, 0x59]).Inv ∧
    (∃ t, eventStep .main (waiting State.reset [0x53, 0x01, 0x00, 0x05, 0x00, 0x57]) = .next t ∧
      t.link.tx = [0xB5, 0xB5]) ∧
    decode Codes.reference [0x53, 0x01, 0x00, 0x05, 0x00, 0x57] = .instr (.setsto 1 0 5 0x57) 6 ∧
    (∃ t, eventStep .main (waiting State.reset [0x59, 0x59]) = .next t ∧ t.active = some .kAsync ∧
      playsOnly .kAsync = false) :=
  ⟨waiting_inv _, waiting_inv _, ⟨_, rfl, by decide⟩, by decide, ⟨_, rfl, by decide⟩⟩

/-- What the tick statements ask of a state, met by every run in progress. -/
theorem running_sampling (x : RunCmd) : SamplingReady (running x) ∧ PlayingReady (running x) ∧ CaptureReady (running x) ∧
    PrimaryReady (running x) ∧ SecondaryReady (running x) ∧ CyclesReady (running x) := by
  simp only [SamplingReady, PlayingReady, CaptureReady, PrimaryReady, SecondaryReady, CyclesReady]
  cases x <;> decide

/-- Hypotheses of TickPrologue, both clauses. -/
theorem witness_tick_prologue : (running .trigrd).active = some .kTrig ∧ (running .trigrd).flags.halt = false ∧
    (haltStep (running .trigrd)).active = some .kTrig ∧ (haltStep (running .trigrd)).flags.halt = true := by decide

/-- Hypotheses of StoreInputsRecordsFrame: two channels, and channel 4 selected. -/
theorem witness_store_inputs :
    (∀ c ∈ inputChannels (running .asyncrd), 1 ≤ c ∧ c ≤ (running .asyncrd).cfg.nadc.toNat) ∧
    storeIndex (running .asyncrd) + (running .asyncrd).run.nchrun.toNat ≤ (running .asyncrd).cfg.bsize.toNat ∧
    (let s := { running .swresp with run := { (running .swresp).run with nchrun := 1, selch := 4 } }
     (∀ c ∈ inputChannels s, 1 ≤ c ∧ c ≤ s.cfg.nadc.toNat) ∧
       storeIndex s + s.run.nchrun.toNat ≤ s.cfg.bsize.toNat) := by decide

/-- Hypotheses of AsyncTickStoresFrame and StepTickAppliesStep. -/
theorem witness_linear_ticks :
    ((running .asyncrd).active = some .kAsync ∧ (running .asyncrd).flags.halt = false ∧
      SamplingReady (running .asyncrd) ∧ CaptureReady (running .asyncrd)) ∧
    ((running .steprsp).active = some .kStep ∧ (running .steprsp).flags.halt = false ∧
      SamplingReady (running .steprsp) ∧ CaptureReady (running .steprsp) ∧ 1 ≤ (running .steprsp).cfg.ndac.toNat) :=
  ⟨⟨rfl, rfl, (running_sampling _).1, (running_sampling _).2.2.1⟩,
    ⟨rfl, rfl, (running_sampling _).1, (running_sampling _).2.2.1, by decide⟩⟩

/-- Hypotheses of TriggeredTickAdvancesPhase. -/
theorem witness_triggered_tick : (running .trigrd).active = some .kTrig ∧ (running .trigrd).flags.halt = false ∧
    SamplingReady (running .trigrd) ∧ KernelReady .kTrig (running .trigrd) :=
  ⟨rfl, rfl, (running_sampling _).1, running_ready .trigrd⟩

/-- Hypotheses of WaveResponseTickPlaysAndRecords: playing (`WREP` = 1) and recording (`WREP` = 0), one output and two. -/
theorem witness_wave_response_tick :
    ((running .wresp).active = some .kWresp ∧ (running .dwresp).active = some .kDwresp ∧
      (running .swresp).active = some .kSwresp) ∧
    (∀ x, (running x).flags.halt = false ∧ SamplingReady (running x) ∧ CaptureReady (running x) ∧
      PlayingReady (running x) ∧ PrimaryReady (running x) ∧ SecondaryReady (running x) ∧ (running x).run.wrep ≠ 0) ∧
    (let s := { running .dwresp with run := { (running .dwresp).run with wrep := 0 } }
     s.active = some .kDwresp ∧ s.run.wrep = 0 ∧ SamplingReady s ∧ CaptureReady s ∧ PlayingReady s ∧ PrimaryReady s ∧
       SecondaryReady s) := by
  refine ⟨⟨rfl, rfl, rfl⟩, fun x => ?_, ?_⟩
  · obtain ⟨h1, h2, h3, h4, h5, -⟩ := running_sampling x
    exact ⟨rfl, h1, h3, h2, h4, h5, by show (1 : Word) ≠ 0; decide⟩
  · simp only [SamplingReady, PlayingReady, CaptureReady, PrimaryReady, SecondaryReady]; decide

/-- Hypotheses of WavePlayTickCountsCycles. -/
theorem witness_wave_play_tick :
    ((running .wplay).active = some .kWplay ∧ (running .dwplay).active = some .kDwplay) ∧
    ∀ x, (running x).flags.halt = false ∧ PlayingReady (running x) ∧ PrimaryReady (running x) ∧
      SecondaryReady (running x) ∧ CyclesReady (running x) := by
  refine ⟨⟨rfl, rfl⟩, fun x => ?_⟩
  obtain ⟨-, h2, -, h4, h5, h6⟩ := running_sampling x
  exact ⟨rfl, h2, h4, h5, h6⟩

/-- Hypotheses of PollAcknowledgesTick. -/
theorem witness_poll : (running .asyncrd).mpc = .poll .asyncrd ∧ (running .asyncrd).flags.done = false := ⟨rfl, rfl⟩

/-- Hypotheses of PollEndsRun, for every run command. -/
theorem witness_poll_ends (x : RunCmd) :
    (finished x).Inv ∧ (finished x).mpc = .poll x ∧ (finished x).flags.done = true := ⟨finished_inv x, rfl, rfl⟩

/-- Hypotheses of HaltEndsRunAtNextTick, for every run command. -/
theorem witness_halt_ends (x : RunCmd) :
    (running x).Inv ∧ (running x).mpc = .poll x ∧ (running x).active = some (kernelOf x) := ⟨running_inv x, rfl, rfl⟩

/-- Hypotheses of IdleHaltIsDiscarded. -/
theorem witness_idle_halt : (waiting State.reset [0x4D, 0x4D]).mpc = .fetch ∧
    decode (waiting State.reset [0x4D, 0x4D]).cfg.codes (waiting State.reset [0x4D, 0x4D]).link.rx ≠ .incomplete :=
  ⟨rfl, by decide⟩

/-- Hypotheses of OverrunMeansMissedPoll: an endless play with a tick, a poll and a tick behind it. -/
theorem witness_overrun :
    let s := { running .wplay with run := { (running .wplay).run with winf := true } }
    Event.reset ∉ [Event.tick, .main, .tick] ∧ s.mpc = .poll .wplay ∧ s.flags.done = false ∧ s.flags.ovr = false ∧
      s.flags.ovrErr = false ∧
      (∀ n v, runEvents (([Event.tick, .main, .tick]).take n) s = .next v → v.active ≠ none) ∧
      ∃ t u, runEvents [.tick, .main, .tick] s = .next t ∧ eventStep .tick t = .next u := by
  refine ⟨by decide, rfl, rfl, rfl, rfl, ?_, _, _, rfl, rfl⟩
  intro n v h
  rcases n with _ | _ | _ | n <;> simp only [List.take, List.take_nil] at h <;> cases h <;> decide

/-- Hypotheses of WavePlayRunsWholeCycles: one cycle of two words, before its end and at its end, dual and not. -/
theorem witness_wave_play_run : PollsAndTicks [.tick, .main, .tick] ∧
    (∀ x, (running x).flags.done = false ∧ (running x).flags.halt = false ∧ PlayingReady (running x) ∧
      (running x).run.wpos = 0 ∧ (running x).run.wpos2 = 0 ∧ (running x).run.winf = false ∧
      (running x).run.wrep ≠ 0 ∧ (running x).conf.ws ≠ 0 ∧ (running x).conf.ws2 ≠ 0 ∧
      ([Event.tick, .main]).count .tick ≤ (running x).run.wrep.toNat * (running x).conf.ws.toNat ∧
      ([Event.tick, .main, .tick]).count .tick = (running x).run.wrep.toNat * (running x).conf.ws.toNat) ∧
    ([Event.tick, .main, .tick]).getLast? = some .tick := by
  refine ⟨by unfold PollsAndTicks; decide, fun x => ⟨rfl, rfl, (running_sampling x).2.1, rfl, rfl, rfl, ?_⟩, rfl⟩
  cases x <;> decide

/-- Hypotheses of WaveResponseRecordsAfterRepeats: one cycle of two words and then two samples. -/
theorem witness_wave_response_run : PollsAndTicks [.tick, .tick, .tick, .main, .tick] ∧
    (∀ x, (running x).flags.done = false ∧ (running x).flags.halt = false ∧ SamplingReady (running x) ∧
      PlayingReady (running x) ∧ (running x).run.wpos = 0 ∧ (running x).run.wpos2 = 0 ∧ (running x).run.samples = 0 ∧
      (running x).run.cur = 0 ∧ (running x).conf.ns ≠ 0 ∧ (running x).conf.ws ≠ 0 ∧ (running x).conf.ws2 ≠ 0 ∧
      ([Event.tick, .tick, .tick, .main, .tick]).count .tick =
        (running x).run.wrep.toNat * (running x).conf.ws.toNat + (running x).conf.ns.toNat) ∧
    ([Event.tick, .tick, .tick, .main, .tick]).getLast? = some .tick := by
  refine ⟨by unfold PollsAndTicks; decide, fun x => ⟨rfl, rfl, (running_sampling x).1, (running_sampling x).2.1,
    rfl, rfl, rfl, rfl, ?_⟩, rfl⟩
  cases x <;> decide

/-- Hypotheses of AsyncRunDeliversSamples: with no poll missed, and with one missed. -/
theorem witness_async_run : (running .asyncrd).active = some .kAsync ∧ (running .asyncrd).mpc = .poll .asyncrd ∧
    (running .asyncrd).flags = { ovr := false, ovrErr := false, toErr := false, halt := false, done := false } ∧
    (running .asyncrd).link.crcTx = 0 ∧ SamplingReady (running .asyncrd) ∧ (running .asyncrd).run.samples = 0 ∧
    (running .asyncrd).run.cur = 0 ∧ (running .asyncrd).conf.ns ≠ 0 ∧
    (∀ es ∈ [[Event.tick, .main, .tick], [.tick, .tick]],
      es.count .tick = (running .asyncrd).conf.ns.toNat ∧ es.getLast? = some .tick) ∧
    PollsAndTicks [.tick, .main, .tick] ∧ PollsAndTicks [.tick, .tick] ∧ MissedPoll [.tick, .tick] := by
  refine ⟨rfl, rfl, rfl, rfl, (running_sampling _).1, rfl, rfl, by decide, by decide, ?_, ?_, [], [], [], rfl, by decide⟩
    <;> (unfold PollsAndTicks; decide)

/-- Hypotheses of TriggeredWindowIsCentred: V-TRG-8 on the first of two channels. -/
theorem witness_triggered_window :
    let s := { running .trigrd with trig := { level := 0x8000, edge := .rising, tocnt := 0 } }
    PollsAndTicks [.tick, .main, .tick, .tick] ∧ s.active = some .kTrig ∧ s.mpc = .poll .trigrd ∧
      s.flags = { ovr := false, ovrErr := false, toErr := false, halt := false, done := false } ∧ s.link.crcTx = 0 ∧
      SamplingReady s ∧ s.run.samples = 0 ∧
      s.run.cur = 0 ∧ s.run.phase = .prefill ∧ s.conf.ns ≠ 0 ∧ s.run.pre.toNat = s.conf.ns.toNat / 2 ∧
      s.run.post.toNat = s.conf.ns.toNat - s.conf.ns.toNat / 2 - 1 ∧
      (∀ v, runEvents ([Event.tick, .main, .tick, .tick].dropLast) s = .next v → v.active ≠ none) ∧
      ∃ t, runEvents [.tick, .main, .tick, .tick] s = .next t ∧ t.active = none ∧ t.flags.toErr = false ∧
        MissedPoll [.tick, .main, .tick, .tick] := by
  refine ⟨by unfold PollsAndTicks; decide, rfl, rfl, rfl, rfl, ?_, rfl, rfl, rfl, by decide, by decide, by decide,
    ?_, _, rfl, by decide, by decide, [.tick, .main], [], [], rfl, by decide⟩
  · simp only [SamplingReady]; decide
  · intro v h; cases h; decide

/-- Hypotheses of TimedTriggeredRunEnds: a count of 1 and of 3. -/
theorem witness_timed_run :
    ∀ n ∈ [(1 : BitVec 32), 3],
    let s := { running .trigrd with trig := { level := 0x8000, edge := .rising, tocnt := n } }
    s.active = some .kTrig ∧ s.mpc = .poll .trigrd ∧ s.flags.done = false ∧ s.flags.halt = false ∧ SamplingReady s ∧
      s.run.samples = 0 ∧ s.run.cur = 0 ∧ s.run.phase = .prefill ∧ s.conf.ns ≠ 0 ∧ s.trig.tocnt ≠ 0 ∧
      s.trig.tocnt.toNat + s.run.post.toNat ≤ ([Event.tick, .main, .tick, .tick]).count .tick := by
  intro n h
  simp only [List.mem_cons, List.not_mem_nil, or_false] at h
  obtain rfl | rfl := h <;>
    exact ⟨rfl, rfl, rfl, rfl, (running_sampling .trigrd).1, rfl, rfl, rfl, by decide, by decide, by decide⟩

end Sys2Proof.Tests
end

