-- ==== Sys2Proof/Proofs/Scope.lean ====
section
/-! SUPPORT. Scope.lean: what the parameters of a profile guarantee (spec/00_scope.md R6): the exact decimal arithmetic
of spec/40_codec_dispatch.md R135 read as rational arithmetic, the bounds a legal period puts on the timeout count
(spec/44_capture_kernels.md R226), and the invariant after hard reset (spec/10_state.md R56). -/

namespace Sys2Proof.Machine

/-! ### Decimals as rationals (R124, R135) -/

/-- The rational a decimal stands for (R124). -/
def decValue (d : Dec) : ℚ := (d.m : ℚ) * (10 : ℚ) ^ d.e

theorem decValue_pos_iff {d : Dec} : 0 < decValue d ↔ 1 ≤ d.m := by
  have hpow : (0 : ℚ) < 10 ^ d.e := zpow_pos (by norm_num) _
  rw [decValue, mul_pos_iff_of_pos_right hpow, Int.cast_pos]
  rfl

/-- The powers of ten the model computes in the natural numbers. -/
theorem ten_zpow_of_nonneg {e : Int} (h : 0 ≤ e) : (10 : ℚ) ^ e = ((10 ^ e.toNat : Nat) : ℚ) := by
  lift e to ℕ using h
  simp

/-- Scaling to a common exponent multiplies the value by a power of ten and stays exact. -/
theorem decScaled_eq {d : Dec} {base : Int} (h : base ≤ d.e) :
    (decScaled d base : ℚ) = decValue d * (10 : ℚ) ^ (-base) := by
  have hpow := ten_zpow_of_nonneg (e := d.e + -base) (by omega)
  rw [decScaled, decValue, mul_assoc, ← zpow_add₀ (by norm_num), hpow, Int.cast_mul,
    Int.cast_natCast, Int.sub_eq_add_neg]

/-- The exact comparison is the order of the rationals (R135 (a)). -/
theorem exactLess_iff {a b : Dec} : exactLess a b = true ↔ decValue a < decValue b := by
  have hpow : (0 : ℚ) < 10 ^ (-min a.e b.e) := zpow_pos (by norm_num) _
  rw [exactLess, decide_eq_true_eq, ← Int.cast_lt (R := ℚ), decScaled_eq (min_le_left _ _),
    decScaled_eq (min_le_right _ _), mul_lt_mul_iff_left₀ hpow]

theorem exactLess_eq_false_iff {a b : Dec} : exactLess a b = false ↔ decValue b ≤ decValue a := by
  rw [← not_lt, ← exactLess_iff, Bool.not_eq_true]

/-- The exact quotient is the floor of the rational quotient (R135 (b)). -/
theorem exactQuotient_eq_floor (s : Nat) {d : Dec} (h : 1 ≤ d.m) :
    (exactQuotient s d : ℤ) = ⌊(s : ℚ) / decValue d⌋ := by
  have hm : (d.m : ℚ) = (d.m.toNat : ℚ) := by exact_mod_cast (Int.toNat_of_nonneg (by omega)).symm
  unfold exactQuotient
  split
  next hneg =>
    have hvalue : decValue d = (d.m.toNat : ℚ) / ((10 ^ (-d.e).toNat : Nat) : ℚ) := by
      rw [decValue, hm, div_eq_mul_inv, ← ten_zpow_of_nonneg (e := -d.e) (by omega), zpow_neg, inv_inv]
    rw [hvalue, div_div_eq_mul_div, ← Nat.cast_mul, Rat.floor_natCast_div_natCast, Int.natCast_ediv]
  next hpos =>
    have hvalue : decValue d = ((d.m.toNat * 10 ^ d.e.toNat : Nat) : ℚ) := by
      rw [decValue, hm, ten_zpow_of_nonneg (by omega), Nat.cast_mul]
    rw [hvalue, Rat.floor_natCast_div_natCast, Int.natCast_ediv]

/-- A longer time and a shorter period never give a smaller quotient. -/
theorem exactQuotient_mono {s t : Nat} {a b : Dec} (hst : s ≤ t) (hpos : 0 < decValue a)
    (hab : decValue a ≤ decValue b) : exactQuotient s b ≤ exactQuotient t a := by
  have hquot : (s : ℚ) / decValue b ≤ (t : ℚ) / decValue a :=
    div_le_div₀ (by positivity) (by exact_mod_cast hst) hpos hab
  have hfloor := Int.floor_le_floor hquot
  rw [← exactQuotient_eq_floor t (decValue_pos_iff.mp hpos),
    ← exactQuotient_eq_floor s (decValue_pos_iff.mp (hpos.trans_le hab))] at hfloor
  exact_mod_cast hfloor

/-! ### Legal periods and timeouts in a profile with exact arithmetic (R24, R226) -/

section ExactArithmetic

variable {cfg : Config} {p : Dec} {seconds : Byte}

theorem decLess_of_exact (h : cfg.arith = .exact) (a b : Dec) : decLess cfg a b = exactLess a b := by
  simp [decLess, h]

theorem timeoutQuotient_of_exact (h : cfg.arith = .exact) :
    timeoutQuotient cfg seconds p = exactQuotient seconds.toNat p := by
  simp [timeoutQuotient, h]

/-- A period is legal exactly when the profile's two bounds do not exclude it (R24). -/
theorem periodLegal_iff_of_exact (h : cfg.arith = .exact) :
    periodLegal cfg p = true ↔ exactLess p cfg.pmin = false ∧ exactLess cfg.pmax p = false := by
  simp [periodLegal, decLess_of_exact h]

/-- The value of `PMIN` is positive and at most that of a legal period (R6, R24). -/
theorem pmin_le_of_periodLegal (h : cfg.arith = .exact) (hl : cfg.Legal) (hp : periodLegal cfg p = true) :
    0 < decValue cfg.pmin ∧ decValue cfg.pmin ≤ decValue p := by
  obtain ⟨hlow, -⟩ := (periodLegal_iff_of_exact h).mp hp
  exact ⟨decValue_pos_iff.mpr hl.pminPositive, exactLess_eq_false_iff.mp hlow⟩

/-- The timeout count, with the setting of `TIMEOUT_ZERO` for a quotient of 0 (R226). -/
theorem timeoutTicks_of_exact (h : cfg.arith = .exact) :
    timeoutTicks cfg seconds p =
      if exactQuotient seconds.toNat p = 0 ∧ cfg.timeoutZero = .immediate then 1
      else exactQuotient seconds.toNat p := by
  simp only [timeoutTicks, timeoutQuotient_of_exact h]

theorem timeoutTicks_eq_floor (h : cfg.arith = .exact) (hm : 1 ≤ p.m) :
    (timeoutTicks cfg seconds p : ℤ) =
      if ⌊(seconds.toNat : ℚ) / decValue p⌋ = 0 ∧ cfg.timeoutZero = .immediate then 1
      else ⌊(seconds.toNat : ℚ) / decValue p⌋ := by
  simp only [timeoutTicks_of_exact h, ← exactQuotient_eq_floor _ hm, Nat.cast_ite, Nat.cast_one, Nat.cast_eq_zero]

/-- No timeout of a legal period exceeds that of 255 s at the period `PMIN`, which the profile bounds (R6, R28). -/
theorem timeoutTicks_lt_of_periodLegal (h : cfg.arith = .exact) (hl : cfg.Legal) (hp : periodLegal cfg p = true) :
    timeoutTicks cfg seconds p < 2 ^ 32 := by
  obtain ⟨hpos, hle⟩ := pmin_le_of_periodLegal h hl hp
  have hseconds : seconds.toNat ≤ 255 := Nat.le_of_lt_succ seconds.isLt
  have hquot : exactQuotient seconds.toNat p < 2 ^ 32 :=
    (exactQuotient_mono hseconds hpos hle).trans_lt hl.timeoutBound
  rw [timeoutTicks_of_exact h]
  split
  · norm_num
  · exact hquot

end ExactArithmetic

/-- Settles O22: `PMIN` bounds every legal period from below, so positivity and the bound on the count carry over from
it. -/
theorem legalPeriodBounds : Obligations.LegalPeriodBounds := by
  intro cfg p seconds h
  refine ⟨fun hm => timeoutTicks_eq_floor h hm, fun hl hp => ⟨?_, timeoutTicks_lt_of_periodLegal h hl hp⟩⟩
  obtain ⟨hpos, hle⟩ := pmin_le_of_periodLegal h hl hp
  exact decValue_pos_iff.mp (hpos.trans_le hle)

/-! ### Hard reset (R56) -/

/-- Right after hard reset the configuration is the profile's defaults, whose limits R6 states, and no run is in
progress. -/
theorem initial_inv {cfg : Config} (h : cfg.Legal) : (State.initial cfg).Inv where
  legal := h
  nchLow := h.nch0Low
  nchHigh := h.nch0High
  ndig := rfl
  ns := h.ns0
  navg := h.navg0
  perSends := h.per0Sends
  perLegal := fun hexact => (periodLegal_iff_of_exact hexact).mpr ⟨h.per0Low, h.per0High⟩
  spans := Nat.zero_le _
  dacs := List.length_replicate
  memForm := rfl
  memInside := fun _ hc => by cases hc
  nchrunLow := by show 1 ≤ RunRegs.initial.nchrun.toNat; decide
  nchrunHigh := by show RunRegs.initial.nchrun.toNat ≤ 4; decide
  selchLow := by show 1 ≤ RunRegs.initial.selch.toNat; decide
  selchHigh := by show RunRegs.initial.selch.toNat ≤ 4; decide
  idle := fun _ => rfl
  polling := fun _ hx => by cases hx
  sendIdle := fun _ hx => by cases hx
  fits := fun _ hx => by cases hx
  ready := fun _ hk => by cases hk

/-- Settles O1: the reference profile is legal, so `State.reset` is a case of `initial_inv`. -/
theorem resetMeetsInvariant : Obligations.ResetMeetsInvariant :=
  ⟨initial_inv Tests.reference_legal, Tests.small_legal, fun _ h => initial_inv h⟩

end Sys2Proof.Machine
end

