-- ==== Sys2Proof/Proofs/State.lean ====
section
/-! SUPPORT. State.lean: who writes which part of the state (spec/10_state.md R20 to R58, spec/20_memory.md R71), and
that every step keeps the invariant. For each agent one relation says what its step may do: `TickFrame` for a kernel's
body (R38), `Answered` and `Launched` for a handler (R132, R194), `dispatched` and `runEnded` for the dispatcher and
the last poll. The statements about steps are read off these. -/

namespace Sys2Proof.Machine

/-! ### The tick agent's part of the single-writer table (R38)

The defaults of the fields below hold of an update that writes only registers the table gives to the tick agent
outright, so that such an update is framed by `{}`. -/

/-- `t` differs from `s` only in what a kernel's body may write, `TOERR` aside (R38, R66). -/
structure TickFrame (s t : State) : Prop where
  cfg : t.cfg = s.cfg := by rfl
  conf : t.conf = s.conf := by rfl
  link : t.link = s.link := by rfl
  mpc : t.mpc = s.mpc := by rfl
  level : t.trig.level = s.trig.level := by rfl
  edge : t.trig.edge = s.trig.edge := by rfl
  tocnt : t.trig.tocnt ≤ s.trig.tocnt := by exact BitVec.le_refl _
  ovr : t.flags.ovr = s.flags.ovr := by rfl
  ovrErr : t.flags.ovrErr = s.flags.ovrErr := by rfl
  toErr : t.flags.toErr = s.flags.toErr := by rfl
  halt : t.flags.halt = s.flags.halt := by rfl
  ended : (t.active = s.active ∧ t.flags.done = s.flags.done) ∨ (t.active = none ∧ t.flags.done = true) := by
    exact .inl ⟨rfl, rfl⟩
  nchrun : t.run.nchrun = s.run.nchrun := by rfl
  selch : t.run.selch = s.run.selch := by rfl
  stepVal : t.run.stepVal = s.run.stepVal := by rfl
  stepIdx : t.run.stepIdx = s.run.stepIdx := by rfl
  winf : t.run.winf = s.run.winf := by rfl
  dacs : t.dac.length = s.dac.length := by rfl
  bytes : ∀ a, a < 2 * tbase s ∨ 2 * s.cfg.bsize.toNat ≤ a → byteAt t a = byteAt s a := by exact fun _ _ => rfl
  memForm : Memory.wf s.mem = true → Memory.wf t.mem = true := by exact id
  memInside : (∀ c ∈ s.mem, c.1 < 2 * s.cfg.bsize.toNat) → ∀ c ∈ t.mem, c.1 < 2 * t.cfg.bsize.toNat := by exact id
  agenda : t.agenda = s.agenda := by rfl
  turn : t.turn = s.turn := by rfl
  resets : t.resets = s.resets := by rfl

/-- The transient region begins where the wavetables end, and no tick moves that. -/
theorem TickFrame.tbase_eq {s t : State} (h : TickFrame s t) : tbase t = tbase s := by
  rw [tbase, tbase, h.conf]

theorem TickFrame.refl (s : State) : TickFrame s s := {}

theorem TickFrame.trans {s t u : State} (h : TickFrame s t) (g : TickFrame t u) : TickFrame s u where
  cfg := g.cfg.trans h.cfg
  conf := g.conf.trans h.conf
  link := g.link.trans h.link
  mpc := g.mpc.trans h.mpc
  level := g.level.trans h.level
  edge := g.edge.trans h.edge
  tocnt := BitVec.le_trans g.tocnt h.tocnt
  ovr := g.ovr.trans h.ovr
  ovrErr := g.ovrErr.trans h.ovrErr
  toErr := g.toErr.trans h.toErr
  halt := g.halt.trans h.halt
  ended := by
    rcases g.ended with ⟨hactive, hdone⟩ | hend
    · rw [hactive, hdone]
      exact h.ended
    · exact .inr hend
  nchrun := g.nchrun.trans h.nchrun
  selch := g.selch.trans h.selch
  stepVal := g.stepVal.trans h.stepVal
  stepIdx := g.stepIdx.trans h.stepIdx
  winf := g.winf.trans h.winf
  dacs := g.dacs.trans h.dacs
  bytes a ha := (g.bytes a (by rwa [h.tbase_eq, h.cfg])).trans (h.bytes a ha)
  memForm := g.memForm ∘ h.memForm
  memInside := g.memInside ∘ h.memInside
  agenda := g.agenda.trans h.agenda
  turn := g.turn.trans h.turn
  resets := g.resets.trans h.resets

/-- Recording a timeout on both sides keeps the frame. -/
theorem TickFrame.recordTimeout {s t : State} (h : TickFrame s t) :
    TickFrame (recordTimeout s) (recordTimeout t) :=
  { h with toErr := rfl }

theorem detach_frame (s : State) : TickFrame s (detach s) := { ended := .inr ⟨rfl, rfl⟩ }

theorem wrapCursor_frame (s : State) : TickFrame s (wrapCursor s) := by
  unfold wrapCursor
  split <;> exact {}

theorem countTimeout_frame (s : State) : TickFrame s (countTimeout s) := by
  unfold countTimeout
  split
  · exact {}
  next hne =>
    have hle : s.trig.tocnt - 1 ≤ s.trig.tocnt := by
      rw [BitVec.le_def, toNat_sub_one hne]
      exact Nat.sub_le _ _
    exact { tocnt := hle }

theorem storeInput_frame {c : Nat} {v : Word} {s t : State} (h : storeInput c s = .ok (v, t)) : TickFrame s t := by
  obtain ⟨-, -, hindex, -, ht, -, -, hbytes, hform, hinside⟩ := storeInput_ok h
  have hbase : tbase s ≤ storeIndex s := Nat.le_add_right _ _
  have hframe : ∀ a, a < 2 * tbase s ∨ 2 * s.cfg.bsize.toNat ≤ a → byteAt t a = byteAt s a :=
    fun a ha => hbytes a (by omega) (by omega)
  rw [ht] at hframe hform hinside ⊢
  exact { bytes := hframe, memForm := hform, memInside := hinside }

theorem storeChannels_frame {cs : List Nat} {vs : List Word} {s t : State} (h : storeChannels cs s = .ok (vs, t)) :
    TickFrame s t := by
  induction cs generalizing s vs with
  | nil =>
    cases h
    exact .refl _
  | cons c cs ih =>
    unfold storeChannels at h
    split at h
    · cases h
    next hc =>
      split at h
      · cases h
      next hcs =>
        cases h
        exact (storeInput_frame hc).trans (ih hcs)

theorem storeInputs_frame {vs : List Word} {s t : State} (h : storeInputs s = .ok (vs, t)) : TickFrame s t :=
  storeChannels_frame h

theorem countSample_frame {s t : State} (h : countSample s = .ok t) : TickFrame s t := by
  obtain ⟨n, -, rfl⟩ := countSample_ok h
  split
  · exact .trans {} (detach_frame _)
  · exact {}

/-! ### What the parts of a kernel's body do -/

/-- Sampling moves the cursor by one sample frame and writes no other register of the run, nor the trigger's (R195). -/
theorem storeInputs_ok {vs : List Word} {s t : State} (h : storeInputs s = .ok (vs, t)) :
    t.run = { s.run with cur := t.run.cur } ∧ t.run.cur.toNat = s.run.cur.toNat + s.run.nchrun.toNat ∧
      t.trig = s.trig ∧ t.active = s.active := by
  obtain ⟨ht, hcur, -⟩ := storeChannels_ok h
  rw [inputChannels_length] at hcur
  exact ⟨congrArg State.run ht, hcur, by rw [ht], by rw [ht]⟩

/-- While the kernel stays attached, counting a sample writes `SAMPLES` only, and `NS` is not reached (R221). -/
theorem countSample_of_active {s t : State} (h : countSample s = .ok t) (ha : t.active ≠ none) :
    t = { s with run := { s.run with samples := t.run.samples } } ∧
      t.run.samples.toNat = s.run.samples.toNat + 1 ∧ s.run.samples.toNat + 1 ≠ s.conf.ns.toNat := by
  obtain ⟨n, hn, rfl⟩ := countSample_ok h
  split at ha
  · exact absurd rfl ha
  next hne =>
    rw [if_neg hne]
    exact ⟨rfl, hn, fun e => hne (BitVec.eq_of_toNat_eq (hn.trans e))⟩

theorem countSlot_ok {s t : State} (h : countSlot s = .ok t) :
    t = { s with run := { s.run with samples := t.run.samples } } ∧
      t.run.samples.toNat = (s.run.samples.toNat + 1) % s.conf.ns.toNat := by
  unfold countSlot at h
  split at h
  · cases h
  next hn =>
    cases h
    exact ⟨rfl, (narrow_ok hn).2⟩

/-- The cursor is the only register the wrap can write, and it goes to 0 at the end of the run's words (R42). -/
theorem wrapCursor_eq (s : State) :
    wrapCursor s = { s with run := { s.run with cur := if s.run.cur.toNat = runWords s then 0 else s.run.cur } } := by
  unfold wrapCursor
  split <;> rfl

theorem countTimeout_eq (s : State) :
    countTimeout s = { s with trig := { s.trig with tocnt := (countTimeout s).trig.tocnt } } := by
  unfold countTimeout
  split <;> rfl

theorem applyStep_ok {s t : State} (h : applyStep s = .ok t) :
    t = { s with dac := t.dac, io := t.io } ∧ t.dac.length = s.dac.length := by
  unfold applyStep at h
  split at h
  · obtain ⟨-, -, rfl⟩ := dacWrite_ok h
    exact ⟨rfl, List.length_set⟩
  · cases h
    exact ⟨rfl, rfl⟩

theorem playWord_ok {d i : Nat} {s t : State} (h : playWord d i s = .ok t) :
    t = { s with dac := t.dac, io := t.io } ∧ t.dac.length = s.dac.length := by
  unfold playWord at h
  split at h
  · cases h
  · obtain ⟨-, -, rfl⟩ := dacWrite_ok h
    exact ⟨rfl, List.length_set⟩

/-- Playing the tables writes the outputs and nothing else (R261, R267). -/
theorem playTables_ok {dual : Bool} {s t : State} (h : playTables dual s = .ok t) :
    t = { s with dac := t.dac, io := t.io } ∧ t.dac.length = s.dac.length := by
  unfold playTables at h
  split at h
  · cases h
  next u hu =>
    obtain ⟨hueq, hulen⟩ := playWord_ok hu
    split at h
    · obtain ⟨hteq, htlen⟩ := playWord_ok h
      exact ⟨by rw [hteq, hueq], htlen.trans hulen⟩
    · cases h
      exact ⟨hueq, hulen⟩

/-- A cursor inside its table stays inside (R262). -/
theorem advanceCursor_lt {pos size p : Word} {wrapped : Bool} (h : advanceCursor pos size = .ok (p, wrapped))
    (hpos : pos.toNat < size.toNat) : p.toNat < size.toNat := by
  unfold advanceCursor at h
  split at h
  · cases h
  next q hq =>
    have hnext := increment_ok hq
    split at h
    · cases h
      exact Nat.zero_lt_of_lt hpos
    next hne =>
      cases h
      have hlast : p.toNat ≠ size.toNat := fun e => hne (BitVec.eq_of_toNat_eq e)
      omega

/-- Advancing the wave moves the two cursors only, each by `advanceCursor` (R262). -/
theorem advanceWave_ok {dual wrapped : Bool} {s t : State} (h : advanceWave dual s = .ok (wrapped, t)) :
    t = { s with run := { s.run with wpos := t.run.wpos, wpos2 := t.run.wpos2 } } ∧
      advanceCursor s.run.wpos s.conf.ws = .ok (t.run.wpos, wrapped) ∧
      (dual = true → ∃ wrapped2, advanceCursor s.run.wpos2 s.conf.ws2 = .ok (t.run.wpos2, wrapped2)) := by
  unfold advanceWave at h
  split at h
  · cases h
  next hpos =>
    split at h
    · dsimp only at h
      split at h
      · cases h
      next hpos2 =>
        cases h
        exact ⟨rfl, hpos, fun _ => ⟨_, hpos2⟩⟩
    next hdual =>
      cases h
      exact ⟨rfl, hpos, fun hd => absurd hd hdual⟩

/-- Before its repetitions are over a wave response records nothing; then it records like a linear capture (R261). -/
theorem recordWave_ok {s t : State} (h : recordWave s = .ok t) :
    (s.run.wrep ≠ 0 ∧ t = s) ∨ (s.run.wrep = 0 ∧ ∃ vs u, storeInputs s = .ok (vs, u) ∧ countSample u = .ok t) := by
  unfold recordWave at h
  split at h
  next hrep =>
    split at h
    · cases h
    next hstore => exact .inr ⟨hrep, _, _, hstore, h⟩
  next hrep =>
    cases h
    exact .inl ⟨hrep, rfl⟩

/-- A counted cycle: one fewer is left, and with the last one the kernel is detached (R267). -/
theorem countCycle_ok {s t : State} (h : countCycle s = .ok t) :
    t = if s.run.wrep - 1 = 0 then detach { s with run := { s.run with wrep := s.run.wrep - 1 } }
      else { s with run := { s.run with wrep := s.run.wrep - 1 } } := by
  unfold countCycle at h
  split at h
  · cases h
  next hdec =>
    obtain ⟨-, rfl⟩ := decrement_ok hdec
    simpa using h.symm

/-- A postsample: one fewer is left, and with the last one the kernel is detached (R232). -/
theorem phaseCapture_ok {s t : State} (h : phaseCapture s = .ok t) :
    t = if s.run.post - 1 = 0 then detach { s with run := { s.run with post := s.run.post - 1 } }
      else { s with run := { s.run with post := s.run.post - 1 } } := by
  unfold phaseCapture at h
  split at h
  · cases h
  next hdec =>
    obtain ⟨-, rfl⟩ := decrement_ok hdec
    simpa using h.symm

/-! ### What each kernel's body does, in the order of its parts -/

theorem tickAsync_ok {s t : State} (h : tickAsync s = .ok t) :
    ∃ vs u, storeInputs s = .ok (vs, u) ∧ countSample (wrapCursor u) = .ok t := by
  unfold tickAsync at h
  split at h
  · cases h
  next hstore => exact ⟨_, _, hstore, h⟩

theorem tickTrig_ok {s t : State} (h : tickTrig s = .ok t) :
    ∃ a vs u v, storeInputs s = .ok (a :: vs, u) ∧ countSlot (wrapCursor u) = .ok v ∧
      ((timesOut v = true ∧ t = detach (recordTimeout (countTimeout v))) ∨
        (timesOut v = false ∧ phaseStep a u.run.samples (countTimeout v) = .ok t)) := by
  unfold tickTrig at h
  split at h
  · cases h
  · cases h
  next hstore =>
    dsimp only at h
    split at h
    · cases h
    next hslot =>
      refine ⟨_, _, _, _, hstore, hslot, ?_⟩
      split at h
      next htime => exact .inl ⟨htime, by simpa using h.symm⟩
      next htime => exact .inr ⟨by simpa using htime, h⟩

theorem tickStepResponse_ok {s t : State} (h : tickStepResponse s = .ok t) :
    ∃ u vs v, applyStep s = .ok u ∧ storeInputs u = .ok (vs, v) ∧ countSample v = .ok t := by
  unfold tickStepResponse at h
  split at h
  · cases h
  next hstep =>
    split at h
    · cases h
    next hstore => exact ⟨_, _, _, hstep, hstore, h⟩

theorem tickWaveResponse_ok {dual : Bool} {s t : State} (h : tickWaveResponse dual s = .ok t) :
    ∃ u v wrapped w, playTables dual s = .ok u ∧ recordWave u = .ok v ∧ advanceWave dual v = .ok (wrapped, w) ∧
      t = { w with run := { w.run with wrep := t.run.wrep } } := by
  unfold tickWaveResponse at h
  split at h
  · cases h
  next hplay =>
    split at h
    · cases h
    next hrec =>
      split at h
      · cases h
      next hadv =>
        refine ⟨_, _, _, _, hplay, hrec, hadv, ?_⟩
        split at h <;> cases h <;> rfl

theorem tickWavePlay_ok {dual : Bool} {s t : State} (h : tickWavePlay dual s = .ok t) :
    ∃ u wrapped v, playTables dual s = .ok u ∧ advanceWave dual u = .ok (wrapped, v) ∧
      ((v.run.winf = false ∧ countCycle v = .ok t) ∨ t = v) := by
  unfold tickWavePlay at h
  split at h
  · cases h
  next hplay =>
    split at h
    · cases h
    next hadv =>
      refine ⟨_, _, _, hplay, hadv, ?_⟩
      split at h
      next hcount =>
        rw [Bool.and_eq_true, Bool.not_eq_true'] at hcount
        exact .inl ⟨hcount.2, h⟩
      next => exact .inr (by simpa using h.symm)

/-! ### Every kernel stays within the tick agent's part (R38, R66, R72) -/

theorem applyStep_frame {s t : State} (h : applyStep s = .ok t) : TickFrame s t := by
  obtain ⟨heq, hlen⟩ := applyStep_ok h
  rw [heq]
  exact { dacs := hlen }

theorem playTables_frame {dual : Bool} {s t : State} (h : playTables dual s = .ok t) : TickFrame s t := by
  obtain ⟨heq, hlen⟩ := playTables_ok h
  rw [heq]
  exact { dacs := hlen }

theorem advanceWave_frame {dual wrapped : Bool} {s t : State} (h : advanceWave dual s = .ok (wrapped, t)) :
    TickFrame s t := by
  rw [(advanceWave_ok h).1]
  exact {}

theorem recordWave_frame {s t : State} (h : recordWave s = .ok t) : TickFrame s t := by
  rcases recordWave_ok h with ⟨-, rfl⟩ | ⟨-, vs, u, hstore, hcount⟩
  · exact .refl _
  · exact (storeInputs_frame hstore).trans (countSample_frame hcount)

theorem countCycle_frame {s t : State} (h : countCycle s = .ok t) : TickFrame s t := by
  rw [countCycle_ok h]
  split
  · exact .trans {} (detach_frame _)
  · exact {}

theorem countSlot_frame {s t : State} (h : countSlot s = .ok t) : TickFrame s t := by
  rw [(countSlot_ok h).1]
  exact {}

theorem phaseStep_frame {a slot : Word} {s t : State} (h : phaseStep a slot s = .ok t) : TickFrame s t := by
  unfold phaseStep at h
  cases hphase : s.run.phase with rw [hphase] at h
  | prefill =>
    cases h
    exact {}
  | armPre =>
    cases h
    unfold phaseArmPre
    split <;> exact {}
  | armPost =>
    cases h
    unfold phaseArmPost
    split
    · dsimp only
      split
      · exact .trans {} (detach_frame _)
      · exact {}
    · exact {}
  | capture =>
    rw [phaseCapture_ok h]
    split
    · exact .trans {} (detach_frame _)
    · exact {}

/-- A triggered tick that ends its run by the timeout (R228): the count stood at 1 outside phase Capture, and apart from
`TOERR` the tick agent's frame is kept. -/
structure TimeoutEnds (s t : State) : Prop where
  lastTick : s.trig.tocnt = 1
  phase : s.run.phase ≠ .capture
  detached : t.active = none
  frame : TickFrame (recordTimeout s) t

theorem tickTrig_frame {s t : State} (h : tickTrig s = .ok t) : TickFrame s t ∨ TimeoutEnds s t := by
  obtain ⟨a, vs, u, v, hstore, hslot, hend⟩ := tickTrig_ok h
  have hframe : TickFrame s (countTimeout v) :=
    (storeInputs_frame hstore).trans ((wrapCursor_frame u).trans ((countSlot_frame hslot).trans (countTimeout_frame v)))
  rcases hend with ⟨htime, rfl⟩ | ⟨-, hphase⟩
  · obtain ⟨hrun, -, htrig, -⟩ := storeInputs_ok hstore
    have hv := (countSlot_ok hslot).1
    rw [wrapCursor_eq] at hv
    have hvtrig : v.trig = s.trig := by rw [hv]; exact htrig
    have huphase : u.run.phase = s.run.phase := by rw [hrun]
    have hvphase : v.run.phase = s.run.phase := by rw [hv]; exact huphase
    rw [timesOut, hvtrig, hvphase, Bool.and_eq_true, decide_eq_true_eq, decide_eq_true_eq] at htime
    exact .inr ⟨htime.1, htime.2, rfl, hframe.recordTimeout.trans (detach_frame _)⟩
  · exact .inl (hframe.trans (phaseStep_frame hphase))

theorem tickAsync_frame {s t : State} (h : tickAsync s = .ok t) : TickFrame s t := by
  obtain ⟨vs, u, hstore, hcount⟩ := tickAsync_ok h
  exact (storeInputs_frame hstore).trans ((wrapCursor_frame u).trans (countSample_frame hcount))

theorem tickStepResponse_frame {s t : State} (h : tickStepResponse s = .ok t) : TickFrame s t := by
  obtain ⟨u, vs, v, hstep, hstore, hcount⟩ := tickStepResponse_ok h
  exact (applyStep_frame hstep).trans ((storeInputs_frame hstore).trans (countSample_frame hcount))

theorem tickWaveResponse_frame {dual : Bool} {s t : State} (h : tickWaveResponse dual s = .ok t) :
    TickFrame s t := by
  obtain ⟨u, v, wrapped, w, hplay, hrec, hadv, ht⟩ := tickWaveResponse_ok h
  have hlast : TickFrame w t := by rw [ht]; exact {}
  exact (playTables_frame hplay).trans ((recordWave_frame hrec).trans ((advanceWave_frame hadv).trans hlast))

theorem tickWavePlay_frame {dual : Bool} {s t : State} (h : tickWavePlay dual s = .ok t) : TickFrame s t := by
  obtain ⟨u, wrapped, v, hplay, hadv, hend⟩ := tickWavePlay_ok h
  have hframe := (playTables_frame hplay).trans (advanceWave_frame hadv)
  rcases hend with ⟨-, hcount⟩ | rfl
  · exact hframe.trans (countCycle_frame hcount)
  · exact hframe

/-- No kernel leaves the tick agent's part, and only the triggered one can record a timeout. -/
theorem kernelBody_frame {k : Kernel} {s t : State} (h : kernelBody k s = .ok t) :
    TickFrame s t ∨ (k = .kTrig ∧ TimeoutEnds s t) := by
  cases k with
  | kAsync => exact .inl (tickAsync_frame h)
  | kTrig => exact (tickTrig_frame h).imp_right fun hend => ⟨rfl, hend⟩
  | kStep => exact .inl (tickStepResponse_frame h)
  | kWresp | kDwresp | kSwresp => exact .inl (tickWaveResponse_frame h)
  | kWplay | kDwplay => exact .inl (tickWavePlay_frame h)

/-! ### The tick step (R190, R193) -/

/-- A tick changes nothing where no kernel is attached; else, after the overrun handshake, it detaches a halted run or
runs the kernel's body. -/
theorem tickStep_next {s t : State} (h : tickStep s = .next t) :
    (s.active = none ∧ t = s) ∨
      ∃ k, s.active = some k ∧
        ((s.flags.halt = true ∧ t = detach (overrunHandshake s)) ∨ kernelBody k (overrunHandshake s) = .ok t) := by
  unfold tickStep at h
  split at h
  next hidle => exact .inl ⟨hidle, by simpa using h.symm⟩
  next k hk =>
    refine .inr ⟨k, hk, ?_⟩
    dsimp only at h
    split at h
    next hhalt => exact .inl ⟨hhalt, by simpa using h.symm⟩
    next => exact .inr (settle_next h)

/-- `s` after the overrun handshake, with `TOERR` as the tick will leave it. -/
def tickStarted (toErr : Bool) (s : State) : State :=
  { overrunHandshake s with flags := { (overrunHandshake s).flags with toErr := toErr } }

/-- With a kernel attached a tick keeps to the tick agent's part, from the overrun handshake on, and only a timeout of
the triggered kernel writes `TOERR`. -/
theorem tickStep_frame {s t : State} {k : Kernel} (hk : s.active = some k) (h : tickStep s = .next t) :
    TickFrame (tickStarted t.flags.toErr s) t ∧
      (t.flags.toErr = s.flags.toErr ∨ (k = .kTrig ∧ TimeoutEnds (overrunHandshake s) t)) := by
  have hcases : TickFrame (overrunHandshake s) t ∨ (k = .kTrig ∧ TimeoutEnds (overrunHandshake s) t) := by
    rcases tickStep_next h with ⟨hidle, -⟩ | ⟨k', hk', ⟨-, rfl⟩ | hbody⟩
    · rw [hk] at hidle
      cases hidle
    · exact .inl (detach_frame _)
    · cases hk.symm.trans hk'
      exact kernelBody_frame hbody
  rcases hcases with hframe | ⟨hkind, hend⟩
  · exact ⟨{ hframe with toErr := rfl }, .inl hframe.toErr⟩
  · exact ⟨{ hend.frame with toErr := rfl }, .inr ⟨hkind, hend⟩⟩

/-- A tick raises `TOERR` or leaves it (R36). -/
theorem tickStep_toErr {s t : State} {k : Kernel} (hk : s.active = some k) (h : tickStep s = .next t)
    (hs : s.flags.toErr = true) : t.flags.toErr = true := by
  obtain ⟨-, hsame | ⟨-, hend⟩⟩ := tickStep_frame hk h
  · exact hsame.trans hs
  · exact hend.frame.toErr

/-- Settles O9: the tick agent's frame, from the overrun handshake on, read field by field. -/
theorem tickWritesItsFieldsOnly : Obligations.TickWritesItsFieldsOnly := by
  intro s t hactive h
  obtain ⟨k, hk⟩ := Option.ne_none_iff_exists'.mp hactive
  obtain ⟨f, -⟩ := tickStep_frame hk h
  have hdone : s.flags.done = true → t.flags.done = true := fun hs =>
    f.ended.elim (fun hkept => hkept.2.trans hs) fun hend => hend.2
  exact ⟨f.cfg, f.conf, f.link, f.mpc, f.level, f.edge, f.tocnt, f.ovr, f.ovrErr, f.halt, tickStep_toErr hk h, hdone,
    f.ended, f.nchrun, f.selch, f.stepVal, f.stepIdx, f.winf, f.bytes, f.agenda, f.turn, f.resets⟩

/-! ### Every kernel that stays attached stays ready (R41, R42, R47, R233, R267) -/

/-- Whether a kernel is ready is a matter of the run registers and the configuration alone. -/
theorem KernelReady.of_eq {k : Kernel} {s t : State} (h : KernelReady k s) (hrun : t.run = s.run)
    (hconf : t.conf = s.conf) : KernelReady k t := by
  cases k <;>
    simpa only [KernelReady, CaptureReady, PrimaryReady, SecondaryReady, CyclesReady, hrun, hconf] using h

/-- The capture counters between the storing and the counting of a sample frame: the cursor is one frame ahead. -/
def CaptureStored (s : State) : Prop :=
  s.run.samples.toNat < s.conf.ns.toNat ∧ s.run.cur.toNat = (s.run.samples.toNat + 1) * s.run.nchrun.toNat

theorem storeInputs_captureStored {vs : List Word} {s t : State} (h : storeInputs s = .ok (vs, t))
    (hr : CaptureReady s) : CaptureStored t := by
  obtain ⟨hrun, hcur, -, -⟩ := storeInputs_ok h
  obtain ⟨hlt, hcap⟩ := hr
  have hsamples : t.run.samples = s.run.samples := by rw [hrun]
  refine ⟨by rwa [hsamples, (storeInputs_frame h).conf], ?_⟩
  rw [hcur, hcap, hsamples, (storeInputs_frame h).nchrun, Nat.succ_mul]

theorem countSample_ready {s t : State} (h : countSample s = .ok t) (ha : t.active ≠ none) (hs : CaptureStored s) :
    CaptureReady t := by
  obtain ⟨ht, hn, hne⟩ := countSample_of_active h ha
  obtain ⟨hlt, hcur⟩ := hs
  have hcurt : t.run.cur = s.run.cur := by rw [ht]
  refine ⟨?_, ?_⟩
  · rw [hn, (countSample_frame h).conf]
    omega
  · rw [hcurt, hcur, hn, (countSample_frame h).nchrun]

/-- The words of the run are full exactly with the last sample frame. -/
theorem cur_eq_runWords_iff {s : State} (hn : 1 ≤ s.run.nchrun.toNat) (hs : CaptureStored s) :
    s.run.cur.toNat = runWords s ↔ s.run.samples.toNat + 1 = s.conf.ns.toNat := by
  rw [hs.2, runWords, Nat.mul_comm s.run.nchrun.toNat]
  exact Nat.mul_left_inj (by omega)

theorem tickAsync_ready {s t : State} (h : tickAsync s = .ok t) (ha : t.active ≠ none)
    (hn : 1 ≤ s.run.nchrun.toNat) (hr : CaptureReady s) : CaptureReady t := by
  obtain ⟨vs, u, hstore, hcount⟩ := tickAsync_ok h
  have hu := storeInputs_captureStored hstore hr
  obtain ⟨-, -, hne⟩ := countSample_of_active hcount ha
  rw [wrapCursor_eq] at hne
  have hcur := (cur_eq_runWords_iff (by rwa [(storeInputs_frame hstore).nchrun]) hu).not.mpr hne
  rw [wrapCursor, if_neg hcur] at hcount
  exact countSample_ready hcount ha hu

/-- The circular counting of a triggered capture: after the last slot both counters are back at 0 (R228). -/
theorem countSlot_ready {s t : State} (h : countSlot (wrapCursor s) = .ok t) (hn : 1 ≤ s.run.nchrun.toNat)
    (hs : CaptureStored s) : CaptureReady t := by
  obtain ⟨ht, hsamples⟩ := countSlot_ok h
  have hfull := cur_eq_runWords_iff hn hs
  obtain ⟨hlt, hcur⟩ := hs
  rw [wrapCursor_eq] at ht hsamples
  have hconf : t.conf = s.conf := by rw [ht]
  have hnchrun : t.run.nchrun = s.run.nchrun := by rw [ht]
  have hcurt : t.run.cur = if s.run.cur.toNat = runWords s then 0 else s.run.cur := by rw [ht]
  dsimp only at hsamples
  rw [CaptureReady, hsamples, hconf, hnchrun, hcurt]
  by_cases hlast : s.run.samples.toNat + 1 = s.conf.ns.toNat
  · rw [if_pos (hfull.mpr hlast), hlast, Nat.mod_self]
    exact ⟨by omega, by simp⟩
  · rw [if_neg (hfull.not.mpr hlast), Nat.mod_eq_of_lt (by omega), hcur]
    exact ⟨by omega, rfl⟩

/-- The phase logic leaves the capture counters alone, and detaches where no postsample is left (R229 to R232). -/
theorem phaseStep_ready {a slot : Word} {s t : State} (h : phaseStep a slot s = .ok t) (ha : t.active ≠ none)
    (hr : CaptureReady s) : KernelReady .kTrig t := by
  unfold phaseStep at h
  cases hphase : s.run.phase with rw [hphase] at h
  | prefill =>
    cases h
    have hne : (phasePrefill s).run.phase ≠ .capture := by
      simp only [phasePrefill, hphase]
      split_ifs <;> exact nofun
    exact ⟨hr, fun hcapture => absurd hcapture hne⟩
  | armPre =>
    cases h
    unfold phaseArmPre
    split
    · exact ⟨hr, fun hcapture => by cases hcapture⟩
    · exact ⟨hr, fun hcapture => by rw [hphase] at hcapture; cases hcapture⟩
  | armPost =>
    cases h
    unfold phaseArmPost at ha ⊢
    split at ha
    next hcross =>
      rw [if_pos hcross]
      dsimp only at ha ⊢
      split at ha
      · exact absurd rfl ha
      next hpost =>
        rw [if_neg hpost]
        exact ⟨hr, fun _ => hpost⟩
    next hcross =>
      rw [if_neg hcross]
      exact ⟨hr, fun hcapture => by rw [hphase] at hcapture; cases hcapture⟩
  | capture =>
    have ht := phaseCapture_ok h
    split at ht
    · exact absurd (by rw [ht]; rfl) ha
    next hpost =>
      rw [ht]
      exact ⟨hr, fun _ => hpost⟩

theorem tickTrig_ready {s t : State} (h : tickTrig s = .ok t) (ha : t.active ≠ none)
    (hn : 1 ≤ s.run.nchrun.toNat) (hr : CaptureReady s) : KernelReady .kTrig t := by
  obtain ⟨a, vs, u, v, hstore, hslot, ⟨-, rfl⟩ | ⟨-, hphase⟩⟩ := tickTrig_ok h
  · exact absurd rfl ha
  · have hv := countSlot_ready hslot (by rwa [(storeInputs_frame hstore).nchrun])
      (storeInputs_captureStored hstore hr)
    rw [countTimeout_eq] at hphase
    exact phaseStep_ready hphase ha hv

theorem tickStepResponse_ready {s t : State} (h : tickStepResponse s = .ok t) (ha : t.active ≠ none)
    (hr : CaptureReady s) : CaptureReady t := by
  obtain ⟨u, vs, v, hstep, hstore, hcount⟩ := tickStepResponse_ok h
  have hu : CaptureReady u := by
    rw [(applyStep_ok hstep).1]
    exact hr
  exact countSample_ready hcount ha (storeInputs_captureStored hstore hu)

/-- The cursors of a wave kernel lie in their tables (R47). -/
def WaveReady (dual : Bool) (s : State) : Prop := PrimaryReady s ∧ (dual = true → SecondaryReady s)

theorem playTables_waveReady {dual : Bool} {s t : State} (h : playTables dual s = .ok t) (hw : WaveReady dual s) :
    WaveReady dual t := by
  rw [(playTables_ok h).1]
  exact hw

theorem advanceWave_waveReady {dual wrapped : Bool} {s t : State} (h : advanceWave dual s = .ok (wrapped, t))
    (hw : WaveReady dual s) : WaveReady dual t := by
  obtain ⟨-, hpos, hpos2⟩ := advanceWave_ok h
  have hconf := (advanceWave_frame h).conf
  refine ⟨?_, fun hd => ?_⟩
  · rw [PrimaryReady, hconf]
    exact advanceCursor_lt hpos hw.1
  · obtain ⟨wrapped2, hpos2⟩ := hpos2 hd
    rw [SecondaryReady, hconf]
    exact advanceCursor_lt hpos2 (hw.2 hd)

/-- Recording keeps the capture counters of a kernel that stays attached, and moves no wave cursor (R261). -/
theorem recordWave_ready {dual : Bool} {s t : State} (h : recordWave s = .ok t) (ha : t.active ≠ none)
    (hr : CaptureReady s) (hw : WaveReady dual s) : CaptureReady t ∧ WaveReady dual t := by
  rcases recordWave_ok h with ⟨-, rfl⟩ | ⟨-, vs, u, hstore, hcount⟩
  · exact ⟨hr, hw⟩
  · refine ⟨countSample_ready hcount ha (storeInputs_captureStored hstore hr), ?_⟩
    have hurun := (storeInputs_ok hstore).1
    have ht := (countSample_of_active hcount ha).1
    have hwpos : t.run.wpos = s.run.wpos := by rw [ht]; exact (congrArg RunRegs.wpos hurun :)
    have hwpos2 : t.run.wpos2 = s.run.wpos2 := by rw [ht]; exact (congrArg RunRegs.wpos2 hurun :)
    rwa [WaveReady, PrimaryReady, SecondaryReady, hwpos, hwpos2, (recordWave_frame h).conf]

theorem tickWaveResponse_ready {dual : Bool} {s t : State} (h : tickWaveResponse dual s = .ok t)
    (ha : t.active ≠ none) (hr : CaptureReady s) (hw : WaveReady dual s) : CaptureReady t ∧ WaveReady dual t := by
  obtain ⟨u, v, wrapped, w, hplay, hrec, hadv, ht⟩ := tickWaveResponse_ok h
  have hwv := (advanceWave_ok hadv).1
  have hva : v.active ≠ none := by
    rw [ht, hwv] at ha
    exact ha
  have hur : CaptureReady u := by
    rw [(playTables_ok hplay).1]
    exact hr
  obtain ⟨hvr, hvw⟩ := recordWave_ready hrec hva hur (playTables_waveReady hplay hw)
  have hwr : CaptureReady w := by
    rw [hwv]
    exact hvr
  have hww := advanceWave_waveReady hadv hvw
  rw [ht]
  exact ⟨hwr, hww⟩

theorem tickWavePlay_ready {dual : Bool} {s t : State} (h : tickWavePlay dual s = .ok t) (ha : t.active ≠ none)
    (hw : WaveReady dual s) (hc : CyclesReady s) : WaveReady dual t ∧ CyclesReady t := by
  obtain ⟨u, wrapped, v, hplay, hadv, hend⟩ := tickWavePlay_ok h
  have hvw := advanceWave_waveReady hadv (playTables_waveReady hplay hw)
  rcases hend with ⟨-, hcount⟩ | rfl
  · have ht := countCycle_ok hcount
    split at ht
    · exact absurd (by rw [ht]; rfl) ha
    next hleft =>
      rw [ht]
      exact ⟨hvw, fun _ => hleft⟩
  · refine ⟨hvw, ?_⟩
    rw [(advanceWave_ok hadv).1, (playTables_ok hplay).1]
    exact hc

/-- A kernel that its tick leaves attached finds its registers in range at the next one. -/
theorem kernelBody_ready {k : Kernel} {s t : State} (h : kernelBody k s = .ok t) (ha : t.active ≠ none)
    (hn : 1 ≤ s.run.nchrun.toNat) (hr : KernelReady k s) : KernelReady k t := by
  cases k with
  | kAsync => exact tickAsync_ready h ha hn hr
  | kTrig => exact tickTrig_ready h ha hn hr.1
  | kStep => exact tickStepResponse_ready h ha hr
  | kWresp | kSwresp =>
    obtain ⟨hcap, hprimary⟩ := hr
    obtain ⟨hcapt, hwave⟩ := tickWaveResponse_ready h ha hcap ⟨hprimary, nofun⟩
    exact ⟨hcapt, hwave.1⟩
  | kDwresp =>
    obtain ⟨hcap, hprimary, hsecondary⟩ := hr
    obtain ⟨hcapt, hwave⟩ := tickWaveResponse_ready h ha hcap ⟨hprimary, fun _ => hsecondary⟩
    exact ⟨hcapt, hwave.1, hwave.2 rfl⟩
  | kWplay =>
    obtain ⟨hprimary, hcycles⟩ := hr
    obtain ⟨hwave, hcyclest⟩ := tickWavePlay_ready h ha ⟨hprimary, nofun⟩ hcycles
    exact ⟨hwave.1, hcyclest⟩
  | kDwplay =>
    obtain ⟨hprimary, hsecondary, hcycles⟩ := hr
    obtain ⟨hwave, hcyclest⟩ := tickWavePlay_ready h ha ⟨hprimary, fun _ => hsecondary⟩ hcycles
    exact ⟨hwave.1, hwave.2 rfl, hcyclest⟩

/-! ### The configuration registers (R21 to R26, R154, R170) -/

/-- The limits on the configuration registers in the profile `cfg` (R21 to R26), with invariant I1 of R170. -/
structure ConfigRegs.Legal (cfg : Config) (c : ConfigRegs) : Prop where
  nchLow : 1 ≤ c.nch.toNat
  nchHigh : c.nch.toNat ≤ 4
  ndig : c.ndig = 0
  ns : c.ns ≠ 0
  navg : c.navg ≠ 0
  perSends : c.per.encodable = true
  perLegal : cfg.arith = .exact → periodLegal cfg c.per = true
  spans : c.ws.toNat + c.ws2.toNat ≤ cfg.bsize.toNat

theorem State.Inv.conf_legal {s : State} (h : s.Inv) : s.conf.Legal s.cfg where
  nchLow := h.nchLow
  nchHigh := h.nchHigh
  ndig := h.ndig
  ns := h.ns
  navg := h.navg
  perSends := h.perSends
  perLegal := h.perLegal
  spans := h.spans

theorem ConfigRegs.initial_legal {cfg : Config} (h : cfg.Legal) : (ConfigRegs.initial cfg).Legal cfg :=
  (initial_inv h).conf_legal

theorem ConfigRegs.Legal.clearPrimary {cfg : Config} {c : ConfigRegs} (h : c.Legal cfg) :
    ConfigRegs.Legal cfg { c with ws := 0 } :=
  { h with spans := by simpa using (Nat.le_add_left _ _).trans h.spans }

theorem ConfigRegs.Legal.clearSecondary {cfg : Config} {c : ConfigRegs} (h : c.Legal cfg) :
    ConfigRegs.Legal cfg { c with ws2 := 0 } :=
  { h with spans := by simpa using (Nat.le_add_right _ _).trans h.spans }

/-- A size within the capacity is stored exactly. -/
theorem size_toNat {cfg : Config} {n : Nat} (h : n ≤ cfg.bsize.toNat) : (BitVec.ofNat 16 n).toNat = n := by
  rw [BitVec.toNat_ofNat, Nat.mod_eq_of_lt (h.trans_lt cfg.bsize.isLt)]

/-- An accepted primary load keeps I1: the secondary span is kept only where both fit (R172). -/
theorem commitPrimary_legal {s : State} {size : Nat} (h : s.conf.Legal s.cfg) (hsize : size ≤ s.cfg.bsize.toNat) :
    (commitPrimary size s).conf.Legal s.cfg := by
  refine { h with spans := ?_ }
  show (BitVec.ofNat 16 size).toNat +
    (if size + s.conf.ws2.toNat > s.cfg.bsize.toNat then 0 else s.conf.ws2).toNat ≤ _
  rw [size_toNat hsize]
  split
  · simpa using hsize
  · omega

/-- The six commands that write a configuration register (R154). -/
def configWriters : List Cmd := [.setper, .setsto, .setnavg, .softrst, .loadp, .loads]

/-! ### What a handler can do

A handler either answers its command at once or starts the command's run. The defaults of the fields hold of a handler
that writes the link, the outputs and the platform's side only. -/

/-- `t` is `s` after the command of `i` was answered: no run is started, and only the six commands of R154 write the
configuration. -/
structure Answered (i : Instr) (s t : State) : Prop where
  cfg : t.cfg = s.cfg := by rfl
  trig : t.trig = s.trig := by rfl
  active : t.active = s.active := by rfl
  flags : t.flags = s.flags := by rfl
  run : t.run = s.run := by rfl
  mpc : t.mpc = s.mpc ∨ t.mpc = .fetch := by exact .inl rfl
  dacs : t.dac.length = s.dac.length := by rfl
  memForm : Memory.wf s.mem = true → Memory.wf t.mem = true := by exact id
  memInside : (∀ c ∈ s.mem, c.1 < 2 * s.cfg.bsize.toNat) → ∀ c ∈ t.mem, c.1 < 2 * t.cfg.bsize.toNat := by exact id
  conf : t.conf = s.conf ∨ i.cmd ∈ configWriters := by exact .inl rfl
  confLegal : i.wf = true → s.cfg.Legal → s.conf.Legal s.cfg → t.conf.Legal s.cfg := by exact fun _ _ => id

/-- `t` is `s` after the run of `x` was started (R194). -/
structure Launched (x : RunCmd) (s t : State) : Prop where
  cfg : t.cfg = s.cfg := by rfl
  conf : t.conf = s.conf := by rfl
  link : t.link = s.link := by rfl
  dac : t.dac = s.dac := by rfl
  mem : t.mem = s.mem := by rfl
  flags : t.flags = clearRunFlags s.flags := by rfl
  mpc : t.mpc = .poll x := by rfl
  active : t.active = some (kernelOf x) := by rfl
  nchrun : t.run.nchrun = s.conf.nch ∨ t.run.nchrun = s.run.nchrun ∨ t.run.nchrun = 1
  selch : t.run.selch = s.run.selch ∨ (1 ≤ t.run.selch.toNat ∧ t.run.selch.toNat ≤ 4)
  fits : playsOnly (kernelOf x) = false → runWords t + tbase t ≤ t.cfg.bsize.toNat
  ready : s.conf.ns ≠ 0 → KernelReady (kernelOf x) t

/-- What the handler of `i` can do from `s`. -/
def Handled (i : Instr) (s t : State) : Prop :=
  Answered i s t ∨ ∃ x, i.cmd = commandOf x ∧ Launched x s t

theorem raiseNack_answered (i : Instr) (s : State) : Answered i s (raiseNack s) := { mpc := .inr rfl }

theorem raiseChecksumError_answered (i : Instr) (s : State) : Answered i s (raiseChecksumError s) :=
  { mpc := .inr rfl }

/-- A failed receive-check answers the command, so what is left is the handler after a passed one (R127). -/
theorem handled_of_rxCheck {i : Instr} {chk : Byte} {s t : State} {f : State → Result} (h : rxCheck chk s f = .next t)
    (hf : f s = .next t → Handled i s t) : Handled i s t := by
  rcases rxCheck_next h with ⟨-, hpass⟩ | ⟨-, rfl⟩
  · exact hf hpass
  · exact .inl (raiseChecksumError_answered i s)

/-- A refused condition answers the command, so what is left is the handler where it holds (R312). -/
theorem handled_of_ite {i : Instr} {p : Prop} [Decidable p] {s t : State} {r : Result}
    (h : (if p then r else .next (raiseNack s)) = .next t) (hr : p → r = .next t → Handled i s t) :
    Handled i s t := by
  split at h
  next hp => exact hr hp h
  next =>
    obtain rfl := Host.Outcome.next.inj h
    exact .inl (raiseNack_answered i s)

/-- What is sent after a command was carried out changes the link alone. -/
theorem Answered.send {i : Instr} {s t : State} (h : Answered i s t) (link : Link) :
    Answered i s { t with link := link } :=
  { h with }

/-! ### Queries and platform commands (spec/46_query_io_commands.md) -/

/-- A query that sends bytes of the profile: FWSTR, PINS, MAGICQ (R290, R291, R293). -/
theorem query_handled {i : Instr} {chk : Byte} {s t : State} {payload : State → List Byte}
    (h : rxCheck chk s (fun s => .next (putChecksum (putBytes (payload s) s))) = .next t) : Handled i s t :=
  handled_of_rxCheck h fun hpass => by
    obtain rfl := Host.Outcome.next.inj hpass
    rw [putBytes_eq]
    exact .inl {}

/-- The capability reply is a list of bytes sent in order. -/
theorem putCapabilities_eq_putBytes (s : State) : ∃ payload, putCapabilities s = putBytes payload s := by
  simp only [putCapabilities, putByte_eq_putBytes, putU16_eq_putBytes, putDec_eq_putBytes, putBytes_append]
  exact ⟨_, rfl⟩

theorem execCaps_handled {chk : Byte} {s t : State} (h : execCaps chk s = .next t) : Handled (.caps chk) s t :=
  handled_of_rxCheck h fun hpass => by
    obtain ⟨payload, hpayload⟩ := putCapabilities_eq_putBytes s
    rw [hpayload, putBytes_eq] at hpass
    obtain rfl := Host.Outcome.next.inj hpass
    exact .inl (.send (t := (resetFlag s).2) {} _)

theorem execAnard_handled {channel chk : Byte} {s t : State} (h : execAnard channel chk s = .next t) :
    Handled (.anard channel chk) s t :=
  handled_of_rxCheck h fun hpass => handled_of_ite hpass fun _ hread => by
    obtain rfl := Host.Outcome.next.inj hread
    exact .inl (.send (t := (analogRead channel s.conf.navg s).2) {} _)

theorem execAnawr_handled {channel chk : Byte} {v : Word} {s t : State} (h : execAnawr channel v chk s = .next t) :
    Handled (.anawr channel v chk) s t :=
  handled_of_rxCheck h fun hpass => handled_of_ite hpass fun _ hwrite => by
    split at hwrite
    next u hu =>
      obtain ⟨-, -, rfl⟩ := dacWrite_ok hu
      obtain rfl := Host.Outcome.next.inj hwrite
      exact .inl { dacs := List.length_set }
    · cases hwrite

theorem execDiomode_handled {line mode chk : Byte} {s t : State} (h : execDiomode line mode chk s = .next t) :
    Handled (.diomode line mode chk) s t :=
  handled_of_rxCheck h fun hpass => by
    dsimp only at hpass
    split at hpass
    · obtain rfl := Host.Outcome.next.inj hpass
      exact .inl {}
    · obtain rfl := Host.Outcome.next.inj hpass
      exact .inl { mpc := .inr rfl }

theorem execDiowr_handled {line v chk : Byte} {s t : State} (h : execDiowr line v chk s = .next t) :
    Handled (.diowr line v chk) s t :=
  handled_of_rxCheck h fun hpass => handled_of_ite hpass fun _ hwrite => by
    obtain rfl := Host.Outcome.next.inj hwrite
    exact .inl {}

theorem execDiord_handled {line chk : Byte} {s t : State} (h : execDiord line chk s = .next t) :
    Handled (.diord line chk) s t :=
  handled_of_rxCheck h fun hpass => handled_of_ite hpass fun _ hread => by
    obtain rfl := Host.Outcome.next.inj hread
    exact .inl (.send (t := (digitalRead line s).2) {} _)

/-! ### Commands that write the configuration (spec/41_config_commands.md, spec/42_allocator_commands.md) -/

theorem execSetper_handled {p : Dec} {chk : Byte} {s t : State} (h : execSetper p chk s = .next t) :
    Handled (.setper p chk) s t :=
  handled_of_rxCheck h fun hpass => handled_of_ite hpass fun hlegal hset => by
    obtain rfl := Host.Outcome.next.inj hset
    exact .inl {
      conf := .inr (by simp [configWriters, Instr.cmd])
      confLegal := fun hwf _ hc => { hc with perSends := hwf, perLegal := fun _ => hlegal } }

theorem execSetsto_handled {nch ndig chk : Byte} {ns : Word} {s t : State}
    (h : execSetsto nch ndig ns chk s = .next t) : Handled (.setsto nch ndig ns chk) s t :=
  handled_of_rxCheck h fun hpass => handled_of_ite hpass fun hlegal hset => by
    obtain rfl := Host.Outcome.next.inj hset
    simp only [storageLegal, Bool.and_eq_true, decide_eq_true_eq] at hlegal
    obtain ⟨⟨⟨⟨hlow, hhigh⟩, -⟩, hns⟩, -⟩ := hlegal
    have hnch : (BitVec.setWidth 3 nch).toNat = nch.toNat := by
      rw [BitVec.toNat_setWidth]
      exact Nat.mod_eq_of_lt (by omega)
    exact .inl {
      conf := .inr (by simp [configWriters, Instr.cmd])
      confLegal := fun _ _ hc => { hc with
        nchLow := hnch.symm ▸ hlow, nchHigh := hnch.symm ▸ hhigh, ndig := rfl, ns := hns } }

theorem execSetnavg_handled {count : Word} {chk : Byte} {s t : State} (h : execSetnavg count chk s = .next t) :
    Handled (.setnavg count chk) s t :=
  handled_of_rxCheck h fun hpass => by
    obtain rfl := Host.Outcome.next.inj hpass
    have hnavg : (if count = 0 then 1 else count) ≠ 0 := by
      split
      · decide
      · assumption
    exact .inl {
      conf := .inr (by simp [configWriters, Instr.cmd])
      confLegal := fun _ _ hc => { hc with navg := hnavg } }

theorem execSoftrst_handled {chk : Byte} {s t : State} (h : execSoftrst chk s = .next t) :
    Handled (.softrst chk) s t :=
  handled_of_rxCheck h fun hpass => by
    split at hpass
    next u hu =>
      obtain ⟨heq, hlen⟩ := dacWriteAll_ok hu
      obtain rfl := Host.Outcome.next.inj hpass
      rw [heq]
      exact .inl {
        dacs := hlen
        conf := .inr (by simp [configWriters, Instr.cmd])
        confLegal := fun _ hl _ => ConfigRegs.initial_legal hl }
    · cases hpass

theorem execLoadp_handled {data : List Word} {chk : Byte} {s t : State} (h : execLoadp data chk s = .next t) :
    Handled (.loadp data chk) s t := by
  have hwriter : (Instr.loadp data chk).cmd ∈ configWriters := by simp [configWriters, Instr.cmd]
  unfold execLoadp at h
  split at h
  next hfits =>
    split at h
    · cases h
    next u hu =>
      obtain ⟨heq, -, -, hform, hinside⟩ := memWriteAll_ok hu
      obtain ⟨mem, rfl⟩ : ∃ mem, u = { s with mem := mem } := ⟨u.mem, heq⟩
      split at h
      · obtain rfl := Host.Outcome.next.inj h
        exact .inl {
          memForm := hform, memInside := hinside, conf := .inr hwriter
          confLegal := fun _ _ hc => commitPrimary_legal (s := { s with mem := mem }) hc (of_decide_eq_true hfits) }
      · obtain rfl := Host.Outcome.next.inj h
        exact .inl {
          mpc := .inr rfl, memForm := hform, memInside := hinside, conf := .inr hwriter
          confLegal := fun _ _ hc => hc.clearPrimary }
  · refine handled_of_rxCheck h fun hpass => ?_
    obtain rfl := Host.Outcome.next.inj hpass
    exact .inl { mpc := .inr rfl, conf := .inr hwriter, confLegal := fun _ _ hc => hc.clearPrimary }

theorem execLoads_handled {data : List Word} {chk : Byte} {s t : State} (h : execLoads data chk s = .next t) :
    Handled (.loads data chk) s t := by
  have hwriter : (Instr.loads data chk).cmd ∈ configWriters := by simp [configWriters, Instr.cmd]
  unfold execLoads at h
  split at h
  next hfits =>
    have hsize : data.length + s.conf.ws.toNat ≤ s.cfg.bsize.toNat := of_decide_eq_true hfits
    split at h
    · cases h
    next u hu =>
      obtain ⟨heq, -, -, hform, hinside⟩ := memWriteAll_ok hu
      obtain ⟨mem, rfl⟩ : ∃ mem, u = { s with mem := mem } := ⟨u.mem, heq⟩
      split at h
      · obtain rfl := Host.Outcome.next.inj h
        have hspans : s.conf.ws.toNat + (BitVec.ofNat 16 data.length).toNat ≤ s.cfg.bsize.toNat := by
          rw [size_toNat (cfg := s.cfg) (by omega)]
          omega
        exact .inl {
          memForm := hform, memInside := hinside, conf := .inr hwriter
          confLegal := fun _ _ hc => { hc with spans := hspans } }
      · obtain rfl := Host.Outcome.next.inj h
        exact .inl {
          mpc := .inr rfl, memForm := hform, memInside := hinside, conf := .inr hwriter
          confLegal := fun _ _ hc => hc.clearSecondary }
  · refine handled_of_rxCheck h fun hpass => ?_
    obtain rfl := Host.Outcome.next.inj hpass
    exact .inl { mpc := .inr rfl, conf := .inr hwriter, confLegal := fun _ _ hc => hc.clearSecondary }

/-! ### Commands that start a run (R194) -/

/-- The capture counters at the start of a run. -/
theorem captureReady_of_zero {s : State} (hns : s.conf.ns ≠ 0) (hsamples : s.run.samples = 0) (hcur : s.run.cur = 0) :
    CaptureReady s := by
  have hpos : 0 < s.conf.ns.toNat := Nat.pos_of_ne_zero fun e => hns (BitVec.eq_of_toNat_eq e)
  rw [CaptureReady, hsamples, hcur]
  exact ⟨hpos, by simp⟩

/-- What the `init` of a capture command may do to the common registers of a run. -/
structure CaptureInit (x : RunCmd) (nch : BitVec 3) (s u : State) : Prop where
  frame : u = { runRegisters (some nch) s with trig := u.trig, run := u.run } := by rfl
  nchrun : u.run.nchrun = nch := by rfl
  selch : u.run.selch = s.run.selch ∨ (1 ≤ u.run.selch.toNat ∧ u.run.selch.toNat ≤ 4) := by exact .inl rfl
  ready : s.conf.ns ≠ 0 → KernelReady (kernelOf x) u

/-- A capture command is refused or starts its run; the reservation check makes the run's words fit (R175, R194). -/
theorem startCapture_handled {i : Instr} {x : RunCmd} {nch : BitVec 3} {init : State → Except Fault State}
    {s t : State} (h : startCapture (kernelOf x) x nch init s = .next t) (hcmd : i.cmd = commandOf x)
    (hnch : nch = s.conf.nch ∨ nch = 1)
    (hinit : ∀ u, init (runRegisters (some nch) s) = .ok u → CaptureInit x nch s u) : Handled i s t := by
  rcases startCapture_next h with ⟨-, rfl⟩ | ⟨hfits, u, hu, rfl⟩
  · exact .inl (raiseNack_answered i s)
  · obtain ⟨hframe, hnchrun, hselch, hready⟩ := hinit u hu
    have hfits : nch.toNat * s.conf.ns.toNat + tbase s ≤ s.cfg.bsize.toNat := of_decide_eq_true hfits
    have hconf : u.conf = s.conf := by rw [hframe]; rfl
    have hcfg : u.cfg = s.cfg := by rw [hframe]; rfl
    refine .inr ⟨x, hcmd, {
      cfg := hcfg, conf := hconf
      link := by rw [hframe]; rfl
      dac := by rw [hframe]; rfl
      mem := by rw [hframe]; rfl
      flags := by rw [hframe]; rfl
      nchrun := hnch.imp hnchrun.trans fun hone => .inr (hnchrun.trans hone)
      selch := hselch
      fits := fun _ => ?_
      ready := fun hns => (hready hns).of_eq rfl rfl }⟩
    show u.run.nchrun.toNat * u.conf.ns.toNat + (u.conf.ws.toNat + u.conf.ws2.toNat) ≤ u.cfg.bsize.toNat
    rwa [hnchrun, hconf, hcfg]

theorem execAsyncrd_handled {chk : Byte} {s t : State} (h : execAsyncrd chk s = .next t) :
    Handled (.asyncrd chk) s t :=
  handled_of_rxCheck h fun hpass => startCapture_handled (x := .asyncrd) hpass rfl (.inl rfl) fun u hu => by
    obtain rfl := Except.ok.inj hu
    exact { ready := fun hns => captureReady_of_zero hns rfl rfl }

theorem initTrigger_ok {level : Word} {edge : Edge} {seconds : Byte} {nch : BitVec 3} {s u : State}
    (h : initTrigger level edge seconds (runRegisters (some nch) s) = .ok u) : CaptureInit .trigrd nch s u := by
  unfold initTrigger at h
  split at h
  · cases h
  · obtain rfl := Except.ok.inj h
    exact { ready := fun hns => ⟨captureReady_of_zero hns rfl rfl, nofun⟩ }

theorem execTrigrd_handled {level : Word} {edge seconds chk : Byte} {s t : State}
    (h : execTrigrd level edge seconds chk s = .next t) : Handled (.trigrd level edge seconds chk) s t :=
  handled_of_rxCheck h fun hpass => by
    split at hpass
    · obtain rfl := Host.Outcome.next.inj hpass
      exact .inl (raiseNack_answered _ s)
    · exact startCapture_handled (x := .trigrd) hpass rfl (.inl rfl) fun u hu => initTrigger_ok hu

theorem execSteprsp_handled {v : Word} {chk : Byte} {s t : State} (h : execSteprsp v chk s = .next t) :
    Handled (.steprsp v chk) s t :=
  handled_of_rxCheck h fun hpass => startCapture_handled (x := .steprsp) hpass rfl (.inl rfl) fun u hu => by
    obtain rfl := Except.ok.inj hu
    exact { ready := fun hns => captureReady_of_zero hns rfl rfl }

/-- At the start of a table that is loaded, a cursor lies in it (R47, R260). -/
theorem zero_lt_size {size : Word} (h : size ≠ 0) : (0 : Word).toNat < size.toNat :=
  Nat.pos_of_ne_zero fun e => h (BitVec.eq_of_toNat_eq e)

theorem tablesLoaded_primary {dual : Bool} {s : State} (h : tablesLoaded dual s = true) :
    (0 : Word).toNat < s.conf.ws.toNat := by
  rw [tablesLoaded, Bool.and_eq_true, decide_eq_true_eq] at h
  exact zero_lt_size h.1

theorem tablesLoaded_secondary {s : State} (h : tablesLoaded true s = true) :
    (0 : Word).toNat < s.conf.ws2.toNat := by
  rw [tablesLoaded, Bool.and_eq_true, Bool.not_true, Bool.false_or] at h
  exact zero_lt_size (of_decide_eq_true h.2)

theorem execWresp_handled {count : Word} {chk : Byte} {s t : State} (h : execWresp count chk s = .next t) :
    Handled (.wresp count chk) s t :=
  handled_of_rxCheck h fun hpass => handled_of_ite hpass fun htables hstart =>
    startCapture_handled (x := .wresp) hstart rfl (.inl rfl) fun u hu => by
      obtain rfl := Except.ok.inj hu
      exact { ready := fun hns => ⟨captureReady_of_zero hns rfl rfl, tablesLoaded_primary htables⟩ }

theorem execDwresp_handled {count : Word} {chk : Byte} {s t : State} (h : execDwresp count chk s = .next t) :
    Handled (.dwresp count chk) s t :=
  handled_of_rxCheck h fun hpass => handled_of_ite hpass fun htables hstart =>
    startCapture_handled (x := .dwresp) hstart rfl (.inl rfl) fun u hu => by
      obtain rfl := Except.ok.inj hu
      exact { ready := fun hns => ⟨captureReady_of_zero hns rfl rfl, tablesLoaded_primary htables,
        tablesLoaded_secondary htables⟩ }

theorem execSwresp_handled {channel : Byte} {count : Word} {chk : Byte} {s t : State}
    (h : execSwresp channel count chk s = .next t) : Handled (.swresp channel count chk) s t :=
  handled_of_rxCheck h fun hpass => handled_of_ite hpass fun hlegal hstart =>
    startCapture_handled (x := .swresp) hstart rfl (.inr rfl) fun u hu => by
      obtain rfl := Except.ok.inj hu
      simp only [selectable, Bool.and_eq_true, decide_eq_true_eq] at hlegal
      obtain ⟨⟨hlow, hhigh⟩, htables⟩ := hlegal
      have hselch : (BitVec.setWidth 3 channel).toNat = channel.toNat := by
        rw [BitVec.toNat_setWidth]
        exact Nat.mod_eq_of_lt (by omega)
      exact {
        selch := .inr ⟨hselch.symm ▸ hlow, hselch.symm ▸ hhigh⟩
        ready := fun hns => ⟨captureReady_of_zero hns rfl rfl, tablesLoaded_primary htables⟩ }

/-- A wave play of `count` cycles has a cycle left, or is without end (R268). -/
theorem initPlay_cyclesReady (dual : Bool) (count : Word) (s : State) : CyclesReady (initPlay dual count s) :=
  of_decide_eq_false

theorem execWplay_handled {count : Word} {chk : Byte} {s t : State} (h : execWplay count chk s = .next t) :
    Handled (.wplay count chk) s t :=
  handled_of_rxCheck h fun hpass => handled_of_ite hpass fun htables hstart => by
    obtain rfl := Host.Outcome.next.inj hstart
    exact .inr ⟨.wplay, rfl, {
      nchrun := .inr (.inl rfl), selch := .inl rfl, fits := nofun
      ready := fun _ => ⟨tablesLoaded_primary htables, initPlay_cyclesReady false count (runRegisters none s)⟩ }⟩

theorem execDwplay_handled {count : Word} {chk : Byte} {s t : State} (h : execDwplay count chk s = .next t) :
    Handled (.dwplay count chk) s t :=
  handled_of_rxCheck h fun hpass => handled_of_ite hpass fun htables hstart => by
    obtain rfl := Host.Outcome.next.inj hstart
    exact .inr ⟨.dwplay, rfl, {
      nchrun := .inr (.inl rfl), selch := .inl rfl, fits := nofun
      ready := fun _ => ⟨tablesLoaded_primary htables, tablesLoaded_secondary htables,
        initPlay_cyclesReady true count (runRegisters none s)⟩ }⟩

/-- Every handler answers its command or starts that command's run. -/
theorem exec_handled {i : Instr} {s t : State} (h : exec i s = .next t) : Handled i s t := by
  cases i with
  | fwstr => exact query_handled (payload := fun s => s.cfg.platform.fwString) h
  | magicq => exact query_handled (payload := fun s => magicBytes s.cfg) h
  | caps => exact execCaps_handled h
  | pins => exact query_handled (payload := fun s => s.cfg.platform.pinList) h
  | anard => exact execAnard_handled h
  | anawr => exact execAnawr_handled h
  | setper => exact execSetper_handled h
  | setsto => exact execSetsto_handled h
  | asyncrd => exact execAsyncrd_handled h
  | trigrd => exact execTrigrd_handled h
  | steprsp => exact execSteprsp_handled h
  | loadp => exact execLoadp_handled h
  | loads => exact execLoads_handled h
  | wresp => exact execWresp_handled h
  | dwresp => exact execDwresp_handled h
  | swresp => exact execSwresp_handled h
  | wplay => exact execWplay_handled h
  | dwplay => exact execDwplay_handled h
  | diomode => exact execDiomode_handled h
  | diowr => exact execDiowr_handled h
  | diord => exact execDiord_handled h
  | setnavg => exact execSetnavg_handled h
  | softrst => exact execSoftrst_handled h

/-! ### The command step (R120, R130, R131) -/

theorem getByte_frame (s : State) :
    ∃ link, getByte s = { s with link := link } ∧ link.crcTx = s.link.crcTx := by
  unfold getByte
  split
  · exact ⟨s.link, rfl, rfl⟩
  · exact ⟨_, rfl, rfl⟩

theorem getBytes_frame (n : Nat) (s : State) :
    ∃ link, getBytes n s = { s with link := link } ∧ link.crcTx = s.link.crcTx := by
  induction n generalizing s with
  | zero => exact ⟨s.link, rfl, rfl⟩
  | succ n ih =>
    obtain ⟨link, hs, hcrc⟩ := getByte_frame s
    obtain ⟨link', hs', hcrc'⟩ := ih { s with link := link }
    exact ⟨link', by rw [getBytes, hs, hs'], hcrc'.trans hcrc⟩

/-- `s` as the dispatcher leaves it: `HALT` cleared, the link at `link`, the rest untouched (R130). -/
def dispatched (link : Link) (s : State) : State :=
  { s with link := link, flags := { s.flags with halt := false } }

/-- The prologue also zeroes the send checksum (R130). -/
theorem prologue_frame (s : State) : ∃ link, prologue s = dispatched link s ∧ link.crcTx = 0 := by
  obtain ⟨link, hs, hcrc⟩ := getByte_frame { s with link := { s.link with crcRx := 0, crcTx := 0 } }
  exact ⟨link, by rw [prologue, hs]; rfl, hcrc⟩

/-- The state a handler starts in, for a frame of any length (R130, R132). -/
theorem acceptFrame_frame (n : Nat) (s : State) :
    ∃ link, acceptFrame n s = dispatched link s ∧ link.crcTx = 0 := by
  obtain ⟨link, hp, hcrc⟩ := prologue_frame s
  obtain ⟨link', hs, hcrc'⟩ := getBytes_frame (n - 2) (dispatched link s)
  exact ⟨{ link' with rx := link'.rx.tail }, by rw [acceptFrame, hp, hs]; rfl, hcrc'.trans hcrc⟩

/-- What a command step can do (R131, R313, R335). -/
theorem commandStep_next {s t : State} (h : commandStep s = .next t) :
    t = s ∨ ∃ link, link.crcTx = 0 ∧ (t = raiseNack (dispatched link s) ∨
      ∃ i n, decode s.cfg.codes s.link.rx = .instr i n ∧ Handled i (dispatched link s) t) := by
  unfold commandStep at h
  split at h
  next i n hdecode =>
    obtain ⟨link, hs, hcrc⟩ := acceptFrame_frame n s
    rw [hs] at h
    exact .inr ⟨link, hcrc, .inr ⟨i, n, hdecode, exec_handled h⟩⟩
  next =>
    obtain ⟨link, hs, hcrc⟩ := prologue_frame s
    rw [hs] at h
    exact .inr ⟨link, hcrc, .inl (by simpa using h.symm)⟩
  next => exact .inl (by simpa using h.symm)

/-! ### The poll step (R196, R197) -/

theorem sendHeader_eq_putBytes (st : Byte) (s : State) :
    sendHeader st s =
      putBytes ([st, BitVec.setWidth 8 s.run.nchrun, s.conf.ndig] ++ wordBytes s.conf.ns) s := rfl

/-- A capture reply changes the link alone, whatever the send checksum was (R199). -/
theorem sendCapture_link {st : Byte} {start : Nat} {s t : State} (h : sendCapture st start s = .ok t) :
    ∃ link, t = { s with link := link } := by
  unfold sendCapture at h
  split at h
  next u hu =>
    obtain rfl := Except.ok.inj h
    have hbytes := sendWords_ok hu
    rw [sendHeader_eq_putBytes, putBytes_append, putBytes_eq] at hbytes
    rw [hbytes]
    exact ⟨_, rfl⟩
  · cases h

theorem runReply_link {x : RunCmd} {s t : State} (h : runReply x s = .ok t) :
    ∃ link, t = { s with link := link } := by
  cases x with
  | wplay | dwplay =>
    obtain rfl := Except.ok.inj h
    exact ⟨_, rfl⟩
  | asyncrd | trigrd | steprsp | wresp | dwresp | swresp => exact sendCapture_link h

/-- The state after the end of a run, with what was sent (R58, R197). -/
def runEnded (link : Link) (s : State) : State := { endRun { s with link := link } with mpc := .fetch }

/-- What a poll step can do: acknowledge the last tick, or end the run. -/
theorem pollStep_next {x : RunCmd} {s t : State} (h : pollStep x s = .next t) :
    (s.flags.done = false ∧ t = acknowledgeTick s) ∨ (s.flags.done = true ∧ ∃ link, t = runEnded link s) := by
  unfold pollStep at h
  split at h
  next hdone =>
    refine .inr ⟨hdone, ?_⟩
    split at h
    next u hu =>
      obtain rfl := Host.Outcome.next.inj h
      obtain ⟨link, rfl⟩ := runReply_link hu
      exact ⟨link, rfl⟩
    · cases h
  next hdone => exact .inl ⟨by simpa using hdone, by simpa using h.symm⟩

/-- The main agent's step by the place of its sequencer (R30). -/
theorem mainStep_next {s t : State} (h : eventStep .main s = .next t) :
    (s.mpc = .fetch ∧ commandStep s = .next t) ∨ ∃ x, s.mpc = .poll x ∧ pollStep x s = .next t := by
  simp only [eventStep, mainStep] at h
  split at h
  next hmpc => exact .inl ⟨hmpc, h⟩
  next x hmpc => exact .inr ⟨x, hmpc, h⟩

/-! ### Parameters, buffer form and configuration: who writes them (R20, R154) -/

theorem Handled.cfg {i : Instr} {s t : State} (h : Handled i s t) : t.cfg = s.cfg := by
  obtain ha | ⟨x, -, hl⟩ := h
  · exact ha.cfg
  · exact hl.cfg

theorem Handled.memForm {i : Instr} {s t : State} (h : Handled i s t) (hm : Memory.wf s.mem = true) :
    Memory.wf t.mem = true := by
  obtain ha | ⟨x, -, hl⟩ := h
  · exact ha.memForm hm
  · rwa [hl.mem]

theorem Handled.conf {i : Instr} {s t : State} (h : Handled i s t) : t.conf = s.conf ∨ i.cmd ∈ configWriters := by
  obtain ha | ⟨x, -, hl⟩ := h
  · exact ha.conf
  · exact .inl hl.conf

/-- What a tick keeps, whether or not a kernel is attached. -/
theorem tickStep_keeps {s t : State} (h : tickStep s = .next t) :
    t.cfg = s.cfg ∧ t.conf = s.conf ∧ t.mpc = s.mpc ∧ (Memory.wf s.mem = true → Memory.wf t.mem = true) := by
  rcases tickStep_next h with ⟨-, rfl⟩ | ⟨k, hk, -⟩
  · exact ⟨rfl, rfl, rfl, id⟩
  · obtain ⟨f, -⟩ := tickStep_frame hk h
    exact ⟨f.cfg, f.conf, f.mpc, f.memForm⟩

theorem eventStep_keeps_cfg_memForm {e : Event} {s t : State} (h : eventStep e s = .next t) :
    (Memory.wf s.mem = true → Memory.wf t.mem = true) ∧ t.cfg = s.cfg := by
  cases e with
  | main =>
    obtain ⟨-, hcommand⟩ | ⟨x, -, hpoll⟩ := mainStep_next h
    · obtain rfl | ⟨link, -, rfl | ⟨i, n, -, hhandled⟩⟩ := commandStep_next hcommand
      · exact ⟨id, rfl⟩
      · exact ⟨id, rfl⟩
      · exact ⟨hhandled.memForm, hhandled.cfg⟩
    · obtain ⟨-, rfl⟩ | ⟨-, link, rfl⟩ := pollStep_next hpoll
      · exact ⟨id, rfl⟩
      · exact ⟨id, rfl⟩
  | tick =>
    obtain ⟨hcfg, -, -, hform⟩ := tickStep_keeps h
    exact ⟨hform, hcfg⟩
  | halt | rx =>
    obtain rfl := Host.Outcome.next.inj h
    exact ⟨id, rfl⟩
  | reset =>
    obtain rfl := Host.Outcome.next.inj h
    exact ⟨fun _ => rfl, rfl⟩

/-- Settles O5: the turn a step takes touches neither. -/
theorem stepKeepsBufferFormAndParameters : Obligations.StepKeepsBufferFormAndParameters :=
  fun s _ h => eventStep_keeps_cfg_memForm (s := takeTurn s) h

/-- Settles O6, agent by agent: only a handler can differ in the configuration, and then it is one of the six. -/
theorem configurationChangesByCommandOnly : Obligations.ConfigurationChangesByCommandOnly := by
  intro e s t h hne
  cases e with
  | main =>
    obtain ⟨hmpc, hcommand⟩ | ⟨x, -, hpoll⟩ := mainStep_next h
    · obtain rfl | ⟨link, -, rfl | ⟨i, n, hdecode, hhandled⟩⟩ := commandStep_next hcommand
      · exact absurd rfl hne
      · exact absurd rfl hne
      · exact .inr ⟨rfl, hmpc, i, n, hdecode, hhandled.conf.resolve_left hne⟩
    · obtain ⟨-, rfl⟩ | ⟨-, link, rfl⟩ := pollStep_next hpoll
      · exact absurd rfl hne
      · exact absurd rfl hne
  | tick => exact absurd (tickStep_keeps h).2.1 hne
  | halt | rx =>
    obtain rfl := Host.Outcome.next.inj h
    exact absurd rfl hne
  | reset => exact .inl rfl

/-! ### The sequencer (R30) -/

/-- Settles O11: from `FETCH` only the start of a run moves `MPC`, from `POLL` only the end of one. -/
theorem sequencerMoves : Obligations.SequencerMoves := by
  intro e s t h hne
  cases e with
  | main =>
    obtain ⟨hmpc, hcommand⟩ | ⟨x, hmpc, hpoll⟩ := mainStep_next h
    · obtain rfl | ⟨link, -, rfl | ⟨i, n, hdecode, hhandled⟩⟩ := commandStep_next hcommand
      · exact absurd rfl hne
      · exact absurd hmpc.symm hne
      · obtain ha | ⟨x, hcmd, hl⟩ := hhandled
        · exact absurd (ha.mpc.elim id fun hfetch => hfetch.trans hmpc.symm) hne
        · exact .inl ⟨rfl, hmpc, x, i, n, hdecode, hcmd, hl.mpc, hl.active⟩
    · obtain ⟨-, rfl⟩ | ⟨hdone, link, rfl⟩ := pollStep_next hpoll
      · exact absurd rfl hne
      · exact .inr (.inl ⟨rfl, ⟨x, hmpc⟩, hdone, rfl⟩)
  | tick => exact absurd (tickStep_keeps h).2.2.1 hne
  | halt | rx =>
    obtain rfl := Host.Outcome.next.inj h
    exact absurd rfl hne
  | reset =>
    obtain rfl := Host.Outcome.next.inj h
    exact .inr (.inr ⟨rfl, rfl⟩)

/-! ### The flags (R34 to R37) -/

theorem Handled.flags {i : Instr} {s t : State} (h : Handled i s t) :
    t.flags = s.flags ∨ t.flags = clearRunFlags s.flags := by
  obtain ha | ⟨x, -, hl⟩ := h
  · exact .inl ha.flags
  · exact .inr hl.flags

/-- `t` has the flags of `s`, but that some other than `HALT` may have fallen (R34 to R37). -/
structure FlagsFall (s t : Flags) : Prop where
  ovrErr : t.ovrErr = s.ovrErr ∨ t.ovrErr = false
  toErr : t.toErr = s.toErr ∨ t.toErr = false
  done : t.done = s.done ∨ t.done = false

theorem FlagsFall.of_kept {s t : Flags} (ho : t.ovrErr = s.ovrErr) (ht : t.toErr = s.toErr) (hd : t.done = s.done) :
    FlagsFall s t :=
  ⟨.inl ho, .inl ht, .inl hd⟩

theorem clearRunFlags_fall (f g : Flags) : FlagsFall f (clearRunFlags g) := ⟨.inr rfl, .inr rfl, .inr rfl⟩

/-- A step of the main agent raises no flag, and clears `HALT` in a command step only (R34, R130). -/
theorem mainStep_flags {s t : State} (h : eventStep .main s = .next t) :
    FlagsFall s.flags t.flags ∧
      (t.flags.halt = s.flags.halt ∨ (t.flags.halt = false ∧ s.mpc = .fetch)) := by
  obtain ⟨hmpc, hcommand⟩ | ⟨x, -, hpoll⟩ := mainStep_next h
  · obtain rfl | ⟨link, -, rfl | ⟨i, n, -, hhandled⟩⟩ := commandStep_next hcommand
    · exact ⟨.of_kept rfl rfl rfl, .inl rfl⟩
    · exact ⟨.of_kept rfl rfl rfl, .inr ⟨rfl, hmpc⟩⟩
    · obtain hflags | hflags := hhandled.flags
      · rw [hflags]
        exact ⟨.of_kept rfl rfl rfl, .inr ⟨rfl, hmpc⟩⟩
      · rw [hflags]
        exact ⟨clearRunFlags_fall _ _, .inr ⟨rfl, hmpc⟩⟩
  · obtain ⟨-, rfl⟩ | ⟨-, link, rfl⟩ := pollStep_next hpoll
    · exact ⟨.of_kept rfl rfl rfl, .inl rfl⟩
    · exact ⟨clearRunFlags_fall _ _, .inl rfl⟩

/-- Settles O10, agent by agent: the main agent lets flags fall, the tick agent raises them. -/
theorem flagWriters : Obligations.FlagWriters := by
  intro e s t h
  cases e with
  | main =>
    obtain ⟨⟨ho, ht, hd⟩, hhalt⟩ := mainStep_flags h
    exact ⟨fun hne => .inr ((hhalt.resolve_left hne).imp_right fun hmpc => .inr ⟨rfl, hmpc⟩),
      fun hne => .inr ⟨ho.resolve_left hne, .inl rfl⟩,
      fun hne => .inr ⟨ht.resolve_left hne, .inl rfl⟩,
      fun hne => .inr ⟨hd.resolve_left hne, .inl rfl⟩⟩
  | tick =>
    obtain ⟨-, rfl⟩ | ⟨k, hk, -⟩ := tickStep_next h
    · exact ⟨absurd rfl, absurd rfl, absurd rfl, absurd rfl⟩
    · obtain ⟨f, htoErr⟩ := tickStep_frame hk h
      refine ⟨absurd f.halt, fun hne => .inl ?_, fun hne => .inl ?_, fun hne => .inl ?_⟩
      · have hovrErr : t.flags.ovrErr = (s.flags.ovrErr || s.flags.ovr) := f.ovrErr
        cases hovr : s.flags.ovr with
        | false => exact absurd (by rw [hovrErr, hovr, Bool.or_false]) hne
        | true => exact ⟨rfl, rfl, by rw [hovrErr, hovr, Bool.or_true]⟩
      · obtain ⟨rfl, hend⟩ := htoErr.resolve_left hne
        exact ⟨rfl, hk, hend.phase, hend.lastTick, hend.frame.toErr, hend.detached⟩
      · obtain ⟨hdetached, hdone⟩ := f.ended.resolve_left fun hkept => hne hkept.2
        exact ⟨rfl, hdone, hdetached⟩
  | halt =>
    obtain rfl := Host.Outcome.next.inj h
    exact ⟨fun _ => .inl ⟨rfl, rfl⟩, absurd rfl, absurd rfl, absurd rfl⟩
  | rx =>
    obtain rfl := Host.Outcome.next.inj h
    exact ⟨absurd rfl, absurd rfl, absurd rfl, absurd rfl⟩
  | reset =>
    obtain rfl := Host.Outcome.next.inj h
    exact ⟨fun _ => .inr ⟨rfl, .inl rfl⟩, fun _ => .inr ⟨rfl, .inr rfl⟩, fun _ => .inr ⟨rfl, .inr rfl⟩,
      fun _ => .inr ⟨rfl, .inr rfl⟩⟩

/-! ### Hard and soft reset (R56, R57, R153) -/

/-- Settles O2: the table is `State.initial`'s, in the profile the state had. -/
theorem hardResetRestoresRegisters : Obligations.HardResetRestoresRegisters := by
  intro s
  have hdac : ∀ d, 1 ≤ d → d ≤ s.cfg.ndac.toNat → dacAt (hardReset s) d = 0 := fun d h1 h2 => by
    rw [dacAt, hardReset_dac, initial_dac]
    exact List.getD_replicate 0 (by omega)
  have hconf : (hardReset s).conf = ConfigRegs.initial s.cfg := rfl
  have hrun : (hardReset s).run = RunRegs.initial := rfl
  refine ⟨hardReset s, rfl, rfl, ?_⟩
  rw [hconf, hrun, tbase, tcap, hconf]
  exact ⟨rfl, rfl, rfl, rfl, rfl, rfl, rfl, rfl, rfl, rfl, rfl, rfl, rfl, rfl, rfl, rfl, rfl, rfl, rfl, rfl, rfl,
    rfl, rfl, rfl, hdac, List.length_replicate, rfl, rfl, rfl, rfl, rfl, rfl, rfl, rfl, rfl, rfl, rfl, rfl, rfl,
    fun _ => rfl⟩

/-- The outputs after `DacWrite` to a list of them: those listed hold the word, the others are as before (R331). -/
theorem dacWriteAll_getElem? {v : Word} {ds : List Nat} {s t : State} (h : dacWriteAll v ds s = .ok t) {j : Nat}
    (hj : j < s.dac.length) : t.dac[j]? = if j + 1 ∈ ds then some v else s.dac[j]? := by
  induction ds generalizing s with
  | nil =>
    cases h
    simp
  | cons d ds ih =>
    unfold dacWriteAll at h
    split at h
    · next u hu =>
      obtain ⟨hd, -, rfl⟩ := dacWrite_ok hu
      have hrest := ih h (by simpa using hj)
      rw [hrest, List.getElem?_set]
      by_cases hds : j + 1 ∈ ds
      · simp [hds]
      · by_cases hhere : d - 1 = j
        · have hjd : j + 1 = d := by omega
          simp [hhere, hj, hjd]
        · have hjd : j + 1 ≠ d := by omega
          simp [hds, hhere, hjd]
    · cases h

/-- Writing every output sets every output (R153). -/
theorem dacWriteAll_outputs {v : Word} {s t : State} (h : dacWriteAll v (outputs s) s = .ok t)
    (hlen : s.dac.length = s.cfg.ndac.toNat) : t.dac = List.replicate s.cfg.ndac.toNat v := by
  refine List.ext_getElem? fun j => ?_
  by_cases hj : j < s.cfg.ndac.toNat
  · have hmem : j + 1 ∈ outputs s := by simpa [outputs] using hj
    rw [dacWriteAll_getElem? h (by omega), if_pos hmem, List.getElem?_replicate, if_pos hj]
  · rw [List.getElem?_replicate, if_neg hj, List.getElem?_eq_none]
    rw [(dacWriteAll_ok h).2]
    omega

theorem outputs_exist (s : State) : ∀ d ∈ outputs s, 1 ≤ d ∧ d ≤ s.cfg.ndac.toNat := by
  simp only [outputs, List.mem_map, List.mem_range]
  rintro d ⟨i, hi, rfl⟩
  omega

/-- Settles O32: the outputs exist, so every one of them is written. -/
theorem softResetRestoresConfiguration : Obligations.SoftResetRestoresConfiguration := by
  intro s chk ⟨hpass, hcrc⟩ hlen
  obtain ⟨t, ht⟩ := dacWriteAll_total (v := 0) (s := { s with conf := ConfigRegs.initial s.cfg }) (outputs_exist s)
  have hdac := dacWriteAll_outputs (s := { s with conf := ConfigRegs.initial s.cfg }) ht hlen
  obtain ⟨heq, -⟩ := dacWriteAll_ok ht
  rw [hdac] at heq
  have hio : (outputs s).map (fun d => OutEvent.dac d 0) =
      (List.range s.cfg.ndac.toNat).map fun d => .dac (d + 1) 0 := by
    simp [outputs, Function.comp_def]
  show execSoftrst chk s = _
  rw [execSoftrst, rxCheck_pass hpass]
  simp only [ht]
  rw [heq, replyAck_eq (by exact hcrc), hio]
  rfl

/-! ### The end of a run (R58, R197, R199) -/

/-- The bytes of the reply a run ends with, before the checksum (R197). -/
def runPayload (x : RunCmd) (s : State) : List Byte :=
  match x with
  | .wplay | .dwplay => [status s]
  | .trigrd => capturePayload (status s) (triggerStart s) s
  | _ => capturePayload (status s) 0 s

/-- A capture reply of a run whose reservation fits can be sent (R66, R199). -/
theorem sendCapture_reply {st : Byte} {start : Nat} {s : State} (hcrc : s.link.crcTx = 0) (hns : s.conf.ns ≠ 0)
    (hfits : runWords s + tbase s ≤ s.cfg.bsize.toNat) :
    sendCapture st start s = .ok (reply (capturePayload st start s) s) := by
  obtain ⟨t, ht⟩ := sendCapture_total (st := st) (start := start) (s := s) fun i hi => by
    obtain ⟨-, hinside⟩ := drainIndices_inside hns hi
    omega
  rw [ht, sendCapture_ok hcrc ht]

theorem runReply_reply {x : RunCmd} {s : State} (hcrc : s.link.crcTx = 0) (hns : s.conf.ns ≠ 0)
    (hfits : playsOnly (kernelOf x) = false → runWords s + tbase s ≤ s.cfg.bsize.toNat) :
    runReply x s = .ok (reply (runPayload x s) s) := by
  cases x with
  | wplay | dwplay =>
    rw [runReply, replyStatus_eq hcrc]
    rfl
  | asyncrd | trigrd | steprsp | wresp | dwresp | swresp => exact sendCapture_reply hcrc hns (hfits rfl)

/-- Settles O52: the invariant gives a zero send checksum and a reservation inside the buffer, so the reply is sent. -/
theorem pollEndsRun : Obligations.PollEndsRun := by
  intro s x hs hmpc hdone
  have hreply := runReply_reply (hs.sendIdle x hmpc) hs.ns (hs.fits x hmpc)
  simp only [eventStep, mainStep, hmpc, pollStep, hdone, hreply, if_true]
  cases x <;> rfl

/-! ### The decoder yields well-formed instructions (R100, R101, R124) -/

theorem wordsOf_length_le (bs : List Byte) : 2 * (wordsOf bs).length ≤ bs.length := by
  induction bs using wordsOf.induct with
  | case1 lo hi bs ih =>
    simp only [wordsOf, List.length_cons]
    omega
  | case2 bs h => simp [wordsOf]

theorem readQV_length_le {bs : List Byte} {data : List Word} {chk : Byte} (h : readQV bs = some (data, chk)) :
    data.length ≤ 65535 := by
  unfold readQV at h
  split at h
  next lo hi bs =>
    dsimp only at h
    split at h
    · simp only [Option.some.injEq, Prod.mk.injEq] at h
      obtain ⟨rfl, -⟩ := h
      have hwords := wordsOf_length_le (bs.take (2 * (u16 lo hi).toNat))
      have htake := List.length_take_le (2 * (u16 lo hi).toNat) bs
      have hsize := (u16 lo hi).isLt
      omega
    · cases h
  · cases h

theorem readQD_encodable {bs : List Byte} {d : Dec} {chk : Byte} (h : readQD bs = some (d, chk)) :
    d.encodable = true := by
  unfold readQD at h
  split at h
  · simp only [Option.some.injEq, Prod.mk.injEq] at h
    obtain ⟨rfl, -⟩ := h
    exact (fields_decOf _ _).2.2
  · cases h

theorem readOperands_wf {bs : List Byte} {c : Cmd} {i : Instr} (h : readOperands bs c = some i) : i.wf = true := by
  cases c with
  | setper =>
    obtain ⟨⟨d, chk⟩, hread, rfl⟩ := Option.map_eq_some_iff.mp h
    exact readQD_encodable hread
  | loadp | loads =>
    obtain ⟨⟨data, chk⟩, hread, rfl⟩ := Option.map_eq_some_iff.mp h
    exact decide_eq_true (readQV_length_le hread)
  | fwstr | magicq | caps | pins | anard | anawr | setsto | asyncrd | trigrd | steprsp | wresp | dwresp | swresp
  | wplay | dwplay | diomode | diowr | diord | setnavg | softrst =>
    obtain ⟨operands, -, rfl⟩ := Option.map_eq_some_iff.mp h
    rfl

theorem decode_wf {k : Codes} {rx : List Byte} {i : Instr} {n : Nat} (h : decode k rx = .instr i n) :
    i.wf = true := by
  unfold decode at h
  split at h
  · cases h
  split at h
  · cases h
  split at h
  · cases h
  split at h
  · cases h
  split at h
  · cases h
  next hread =>
    cases h
    exact readOperands_wf hread

/-! ### Every step keeps the invariant -/

/-- The part of the invariant that is about registers and buffer, whether or not a run is in progress. -/
structure RegistersGood (s : State) : Prop where
  legal : s.cfg.Legal
  conf : s.conf.Legal s.cfg
  dacs : s.dac.length = s.cfg.ndac.toNat
  memForm : Memory.wf s.mem = true
  memInside : ∀ c ∈ s.mem, c.1 < 2 * s.cfg.bsize.toNat
  nchrunLow : 1 ≤ s.run.nchrun.toNat
  nchrunHigh : s.run.nchrun.toNat ≤ 4
  selchLow : 1 ≤ s.run.selch.toNat
  selchHigh : s.run.selch.toNat ≤ 4

theorem State.Inv.registersGood {s : State} (h : s.Inv) : RegistersGood s :=
  { h with conf := h.conf_legal }

/-- The registers' part and the run's part make the invariant. -/
theorem RegistersGood.inv {s : State} (h : RegistersGood s) (idle : s.mpc = .fetch → s.active = none)
    (polling : ∀ x, s.mpc = .poll x →
      (s.active = some (kernelOf x) ∧ s.flags.done = false) ∨ (s.active = none ∧ s.flags.done = true))
    (sendIdle : ∀ x, s.mpc = .poll x → s.link.crcTx = 0)
    (fits : ∀ x, s.mpc = .poll x → playsOnly (kernelOf x) = false → runWords s + tbase s ≤ s.cfg.bsize.toNat)
    (ready : ∀ k, s.active = some k → KernelReady k s) : s.Inv :=
  { h, h.conf with idle, polling, sendIdle, fits, ready }

/-- Outside a run the registers' part is all there is to the invariant. -/
theorem RegistersGood.inv_of_idle {s : State} (h : RegistersGood s) (hmpc : s.mpc = .fetch) (hidle : s.active = none) :
    s.Inv :=
  h.inv (fun _ => hidle) (fun x hx => by rw [hmpc] at hx; cases hx) (fun x hx => by rw [hmpc] at hx; cases hx)
    (fun x hx => by rw [hmpc] at hx; cases hx) (fun k hk => by rw [hidle] at hk; cases hk)

/-- Outside a run the link and the flags are free, so the dispatcher may write them. -/
theorem State.Inv.dispatched {s : State} (h : s.Inv) (hmpc : s.mpc = .fetch) (link : Link) :
    (dispatched link s).Inv :=
  RegistersGood.inv_of_idle { h.registersGood with } hmpc (h.idle hmpc)

theorem Answered.inv {i : Instr} {s t : State} (h : Answered i s t) (hs : s.Inv) (hmpc : s.mpc = .fetch)
    (hwf : i.wf = true) : t.Inv := by
  have g := hs.registersGood
  have good : RegistersGood t := {
    legal := h.cfg ▸ g.legal
    conf := h.cfg ▸ h.confLegal hwf g.legal g.conf
    dacs := by rw [h.dacs, h.cfg, g.dacs]
    memForm := h.memForm g.memForm
    memInside := h.memInside g.memInside
    nchrunLow := h.run ▸ g.nchrunLow
    nchrunHigh := h.run ▸ g.nchrunHigh
    selchLow := h.run ▸ g.selchLow
    selchHigh := h.run ▸ g.selchHigh }
  exact good.inv_of_idle (h.mpc.elim (·.trans hmpc) id) (h.active.trans (hs.idle hmpc))

/-- The channel registers of a run that starts lie in 1 to 4 (R43). -/
theorem Launched.channels {x : RunCmd} {s t : State} (h : Launched x s t) (g : RegistersGood s) :
    (1 ≤ t.run.nchrun.toNat ∧ t.run.nchrun.toNat ≤ 4) ∧ 1 ≤ t.run.selch.toNat ∧ t.run.selch.toNat ≤ 4 := by
  constructor
  · rcases h.nchrun with hn | hn | hn
    · rw [hn]
      exact ⟨g.conf.nchLow, g.conf.nchHigh⟩
    · rw [hn]
      exact ⟨g.nchrunLow, g.nchrunHigh⟩
    · rw [hn]
      decide
  · rcases h.selch with hn | hn
    · rw [hn]
      exact ⟨g.selchLow, g.selchHigh⟩
    · exact hn

theorem Launched.inv {x : RunCmd} {s t : State} (h : Launched x s t) (hs : s.Inv) (hcrc : s.link.crcTx = 0) :
    t.Inv := by
  have g := hs.registersGood
  obtain ⟨⟨hnlow, hnhigh⟩, hslow, hshigh⟩ := h.channels g
  have good : RegistersGood t := {
    legal := h.cfg ▸ g.legal
    conf := by rw [h.cfg, h.conf]; exact g.conf
    dacs := by rw [h.dac, h.cfg, g.dacs]
    memForm := h.mem ▸ g.memForm
    memInside := by rw [h.mem, h.cfg]; exact g.memInside
    nchrunLow := hnlow
    nchrunHigh := hnhigh
    selchLow := hslow
    selchHigh := hshigh }
  have hx : ∀ y, t.mpc = .poll y → y = x := fun y hy => by
    rw [h.mpc] at hy
    cases hy
    rfl
  refine good.inv (fun hfetch => ?_) (fun y hy => ?_) (fun _ _ => ?_) (fun y hy => ?_) (fun k hk => ?_)
  · rw [h.mpc] at hfetch
    cases hfetch
  · obtain rfl := hx y hy
    exact .inl ⟨h.active, by rw [h.flags]; rfl⟩
  · rw [h.link, hcrc]
  · obtain rfl := hx y hy
    exact h.fits
  · rw [h.active] at hk
    cases hk
    exact h.ready hs.ns

theorem commandStep_inv {s t : State} (hs : s.Inv) (hmpc : s.mpc = .fetch) (h : commandStep s = .next t) : t.Inv := by
  obtain rfl | ⟨link, hcrc, rfl | ⟨i, n, hdecode, ha | ⟨x, -, hl⟩⟩⟩ := commandStep_next h
  · exact hs
  · exact RegistersGood.inv_of_idle { hs.registersGood with } rfl (hs.idle hmpc)
  · exact ha.inv (hs.dispatched hmpc link) hmpc (decode_wf hdecode)
  · exact hl.inv (hs.dispatched hmpc link) hcrc

/-- The run registers of R56 lie in their ranges. -/
theorem RegistersGood.endRun {s : State} (h : RegistersGood s) (link : Link) : RegistersGood (runEnded link s) :=
  { h with
    nchrunLow := by show 1 ≤ RunRegs.initial.nchrun.toNat; decide
    nchrunHigh := by show RunRegs.initial.nchrun.toNat ≤ 4; decide
    selchLow := by show 1 ≤ RunRegs.initial.selch.toNat; decide
    selchHigh := by show RunRegs.initial.selch.toNat ≤ 4; decide }

theorem pollStep_inv {x : RunCmd} {s t : State} (hs : s.Inv) (hmpc : s.mpc = .poll x) (h : pollStep x s = .next t) :
    t.Inv := by
  obtain ⟨-, rfl⟩ | ⟨hdone, link, rfl⟩ := pollStep_next h
  · exact { hs with ready := fun k hk => (hs.ready k hk).of_eq rfl rfl }
  · have hidle : s.active = none := by
      obtain ⟨-, hrunning⟩ | ⟨hidle, -⟩ := hs.polling x hmpc
      · rw [hdone] at hrunning
        cases hrunning
      · exact hidle
    exact (hs.registersGood.endRun link).inv_of_idle rfl hidle

theorem tickStep_inv {s t : State} (hs : s.Inv) (h : tickStep s = .next t) : t.Inv := by
  have g := hs.registersGood
  obtain ⟨-, rfl⟩ | ⟨k, hk, hbody⟩ := tickStep_next h
  · exact hs
  obtain ⟨f, -⟩ := tickStep_frame hk h
  have hcfg : t.cfg = s.cfg := f.cfg
  have hnchrun : t.run.nchrun = s.run.nchrun := f.nchrun
  have hselch : t.run.selch = s.run.selch := f.selch
  have hmpc : t.mpc = s.mpc := f.mpc
  have good : RegistersGood t := {
    legal := hcfg ▸ g.legal
    conf := by rw [hcfg, f.conf]; exact g.conf
    dacs := by rw [f.dacs, hcfg]; exact g.dacs
    memForm := f.memForm g.memForm
    memInside := f.memInside g.memInside
    nchrunLow := hnchrun ▸ g.nchrunLow
    nchrunHigh := hnchrun ▸ g.nchrunHigh
    selchLow := hselch ▸ g.selchLow
    selchHigh := hselch ▸ g.selchHigh }
  refine good.inv (fun hfetch => ?_) (fun x hx => ?_) (fun x hx => ?_) (fun x hx hplays => ?_) (fun l hl => ?_)
  · rw [hs.idle (hmpc ▸ hfetch)] at hk
    cases hk
  · obtain ⟨hactive, hdone⟩ | hended := f.ended
    · rw [hactive, hdone]
      exact hs.polling x (hmpc ▸ hx)
    · exact .inr hended
  · rw [f.link]
    exact hs.sendIdle x (hmpc ▸ hx)
  · rw [runWords, hnchrun, f.conf, f.tbase_eq, hcfg]
    exact hs.fits x (hmpc ▸ hx) hplays
  · have hattached : t.active ≠ none := by rw [hl]; exact nofun
    obtain ⟨hactive, -⟩ := f.ended.resolve_right fun hend => hattached hend.1
    have hlk : l = k := Option.some.inj (hl.symm.trans (hactive.trans hk))
    rcases hbody with ⟨-, rfl⟩ | hbody
    · exact absurd rfl hattached
    · rw [hlk]
      exact kernelBody_ready hbody hattached g.nchrunLow ((hs.ready k hk).of_eq rfl rfl)

theorem eventStep_inv {e : Event} {s t : State} (hs : s.Inv) (h : eventStep e s = .next t) : t.Inv := by
  cases e with
  | main =>
    obtain ⟨hmpc, hcommand⟩ | ⟨x, hmpc, hpoll⟩ := mainStep_next h
    · exact commandStep_inv hs hmpc hcommand
    · exact pollStep_inv hs hmpc hpoll
  | tick => exact tickStep_inv hs h
  | halt | rx =>
    obtain rfl := Host.Outcome.next.inj h
    exact { hs with ready := fun k hk => (hs.ready k hk).of_eq rfl rfl }
  | reset =>
    obtain rfl := Host.Outcome.next.inj h
    exact RegistersGood.inv_of_idle { (initial_inv hs.legal).registersGood with } rfl rfl

/-- Settles O3: a step is the next event's step after a turn is taken, and no part of the invariant is about turns. -/
theorem stepKeepsInvariant : Obligations.StepKeepsInvariant := by
  intro s t hs h
  have hturn : (takeTurn s).Inv := { hs with ready := fun k hk => (hs.ready k hk).of_eq rfl rfl }
  exact eventStep_inv hturn h

end Sys2Proof.Machine
end

/-! SUPPORT. Memory.lean: the statements of spec/20_memory.md. What each shared operation of a run answers where it is
ready, as an equation for the whole next state; from these, that no step of a good state faults (R66, R134, R315), that
a run is independent of the link (R75), and the course of a whole wave response (spec/45_wave_kernels.md R261). -/

namespace Sys2Proof.Machine

/-! ### The buffer (R60) -/

/-- Settles O23: the laws of `memWrite` and `memRead`, below `BSIZE` and from it on. -/
theorem bufferReadAfterWrite : Obligations.BufferReadAfterWrite := by
  intro i v s
  refine ⟨fun hi => ?_, fun hi => ⟨if_neg (by omega), if_neg (by omega)⟩⟩
  have hwrite := memWrite_total v hi
  refine ⟨_, hwrite, ?_, rfl, fun a hlow hhigh => memWrite_byteAt_other hwrite hlow hhigh⟩
  exact (memRead_total (by exact hi)).trans (congrArg Except.ok (memWrite_wordAt_same hwrite))

/-! ### The frame at the head of `RX` (R71, R103, R131) -/

theorem Format.two_le_length (f : Format) : 2 ≤ f.length := by
  cases f <;> decide

/-- A frame of a recognised command has at least its command byte and its checksum byte (R91). -/
theorem two_le_frameLen {k : Codes} {c : Byte} {r : List Byte} {cmd : Cmd} {n : Nat} (hcmd : k.find c = some cmd)
    (h : frameLen k (c :: r) = some n) : 2 ≤ n := by
  simp only [frameLen, hcmd] at h
  split at h
  · split at h
    · cases h
      omega
    · cases h
  · cases h
    exact Format.two_le_length _

/-- A decoded instruction's frame lies in the stream, command byte and checksum byte at least. -/
theorem decode_instr_length {k : Codes} {rx : List Byte} {i : Instr} {n : Nat} (h : decode k rx = .instr i n) :
    2 ≤ n ∧ n ≤ rx.length := by
  unfold decode at h
  split at h
  · cases h
  next m hlen =>
    split at h
    · cases h
    next hcomplete =>
      split at h
      · cases h
      next c bs htake =>
        split at h
        · cases h
        next cmd hcmd =>
          split at h
          · cases h
          · cases h
            obtain ⟨r, rfl⟩ : ∃ r, rx = c :: r :=
              ⟨bs ++ rx.drop n, by rw [← List.cons_append, ← htake, List.take_append_drop]⟩
            exact ⟨two_le_frameLen hcmd hlen, by omega⟩

theorem commandStep_of_instr {s : State} {i : Instr} {n : Nat} (h : decode s.cfg.codes s.link.rx = .instr i n) :
    commandStep s = exec i (acceptFrame n s) := by
  rw [commandStep, h]

theorem mainStep_of_fetch {s : State} (h : s.mpc = .fetch) : mainStep s = commandStep s := by
  rw [mainStep, h]

theorem mainStep_of_poll {x : RunCmd} {s : State} (h : s.mpc = .poll x) : mainStep s = pollStep x s := by
  rw [mainStep, h]

/-- Settles O18: the frame is complete, so the dispatcher takes it whole. -/
theorem stepRunsDecodedInstruction : Obligations.StepRunsDecodedInstruction := by
  intro s i n hnext hmpc hdecode
  obtain ⟨htwo, hlen⟩ := decode_instr_length hdecode
  calc step s = eventStep (nextEvent s) (takeTurn s) := rfl
    _ = mainStep (takeTurn s) := by rw [hnext]; rfl
    _ = commandStep (takeTurn s) := mainStep_of_fetch hmpc
    _ = exec i (acceptFrame n (takeTurn s)) := commandStep_of_instr hdecode
    _ = _ := by rw [acceptFrame_eq (s := takeTurn s) htwo hlen]; rfl

/-! ### Sampling (R195) -/

/-- The channels of a tick: `SELCH` in the single-channel wave response, else 1 to `NCHRUN` (R195, R266). -/
theorem inputChannels_eq (s : State) :
    inputChannels s = if s.active = some .kSwresp then List.replicate s.run.nchrun.toNat s.run.selch.toNat
      else List.range' 1 s.run.nchrun.toNat := by
  unfold inputChannels
  split
  · simp [List.map_const']
  · rw [List.range'_eq_map_range]
    exact List.map_congr_left fun i _ => Nat.add_comm i 1

/-- Where the channels exist and the words fit, sampling answers the state after one recorded frame. -/
theorem storeInputs_eq {s : State} (hexist : ∀ c ∈ inputChannels s, 1 ≤ c ∧ c ≤ s.cfg.nadc.toNat)
    (hfits : storeIndex s + s.run.nchrun.toNat ≤ s.cfg.bsize.toNat) :
    ∃ vs mem, storeInputs s = .ok (vs, sampled s mem) ∧ Recorded s mem ∧ vs.length = s.run.nchrun.toNat ∧
      ∀ j c, (inputChannels s)[j]? = some c → vs[j]? = some (nextSample s j c) := by
  obtain ⟨vs, t, hstore⟩ := storeChannels_total hexist (by rwa [inputChannels_length])
  obtain ⟨ht, hcur, hlen, hwords, hanswers, hframe, -⟩ := storeChannels_ok hstore
  rw [inputChannels_length] at ht hcur hlen hframe
  have hsampled : t = sampled s t.mem := by
    have hcur' : t.run.cur = BitVec.ofNat 16 (s.run.cur.toNat + s.run.nchrun.toNat) := by simp [← hcur]
    rw [ht, sampled, hcur']
  have hbyte : ∀ a, byteAt { s with mem := t.mem } a = byteAt t a := fun a => by rw [ht]; rfl
  refine ⟨vs, t.mem, ?_, ⟨fun j c hj => ?_, fun a ha => ?_⟩, hlen, hanswers⟩
  · rw [← hsampled]
    exact hstore
  · obtain ⟨hin, hvs⟩ := List.getElem?_eq_some_iff.mp (hanswers j c hj)
    rw [wordAt, hbyte, hbyte]
    exact (hwords j hin).trans hvs
  · rw [hbyte]
    exact hframe a ha

/-- Settles O45: the channels of a tick, and the frame recorded from them. -/
theorem storeInputsRecordsFrame : Obligations.StoreInputsRecordsFrame :=
  fun s => ⟨inputChannels_eq s, storeInputs_eq⟩

/-- The next sample frame of a run that is ready lies inside the run's words, and these inside the buffer (R66). -/
theorem storeIndex_fits {s : State} (hs : SamplingReady s) (hc : CaptureReady s) :
    storeIndex s + s.run.nchrun.toNat ≤ s.cfg.bsize.toNat := by
  obtain ⟨-, -, -, -, -, hfits⟩ := hs
  obtain ⟨hlt, hcur⟩ := hc
  have hframe : (s.run.samples.toNat + 1) * s.run.nchrun.toNat ≤ runWords s := by
    rw [runWords, Nat.mul_comm s.run.nchrun.toNat]
    exact Nat.mul_le_mul_right _ hlt
  rw [Nat.succ_mul] at hframe
  rw [storeIndex, hcur]
  omega

/-- Sampling in a run that is ready (R195). -/
theorem storeInputs_of_ready {s : State} (hs : SamplingReady s) (hc : CaptureReady s) :
    ∃ vs mem, storeInputs s = .ok (vs, sampled s mem) ∧ Recorded s mem ∧ vs.length = s.run.nchrun.toNat := by
  have hfits := storeIndex_fits hs hc
  obtain ⟨-, hnchrun, hlow, hhigh, hnadc, -⟩ := hs
  obtain ⟨vs, mem, hstore, hrec, hlen, -⟩ := storeInputs_eq (inputChannels_exist hnchrun hlow hhigh hnadc) hfits
  exact ⟨vs, mem, hstore, hrec, hlen⟩

/-- A sample counted; the last of a run detaches the kernel (R221, R236, R261). -/
def counted (s : State) : State :=
  if s.run.samples.toNat + 1 = s.conf.ns.toNat then
    detach { s with run := { s.run with samples := s.run.samples + 1 } }
  else { s with run := { s.run with samples := s.run.samples + 1 } }

theorem ofNat_toNat_add_one {w : Nat} (c : BitVec w) : BitVec.ofNat w (c.toNat + 1) = c + 1 := by
  simp [← BitVec.ofNat_add_ofNat]

/-- A counter below another has room for one more. -/
theorem toNat_add_one_of_lt {w : Nat} {c size : BitVec w} (h : c.toNat < size.toNat) :
    (c + 1).toNat = c.toNat + 1 := by
  rw [← ofNat_toNat_add_one, BitVec.toNat_ofNat, Nat.mod_eq_of_lt (Nat.lt_of_le_of_lt h size.isLt)]

theorem increment_of_lt {w : Nat} {c size : BitVec w} (h : c.toNat < size.toNat) : increment c = .ok (c + 1) := by
  rw [increment_total (Nat.lt_of_le_of_lt h size.isLt), ofNat_toNat_add_one]

theorem add_one_eq_iff_of_lt {w : Nat} {c size : BitVec w} (h : c.toNat < size.toNat) :
    c + 1 = size ↔ c.toNat + 1 = size.toNat := by
  rw [← toNat_add_one_of_lt h, BitVec.toNat_inj]

theorem countSample_eq {s : State} (h : s.run.samples.toNat < s.conf.ns.toNat) : countSample s = .ok (counted s) := by
  simp only [countSample, increment_of_lt h, counted, add_one_eq_iff_of_lt h]

/-! ### Playing (R261, R262, R267) -/

theorem playWord_eq {d i : Nat} {s : State} (hi : i < s.cfg.bsize.toNat) (hlow : 1 ≤ d)
    (hhigh : d ≤ s.cfg.ndac.toNat) :
    playWord d i s =
      .ok { s with dac := s.dac.set (d - 1) (wordAt s i), io := s.io ++ [.dac d (wordAt s i)] } := by
  simp only [playWord, memRead_total hi, dacWrite_total _ hlow hhigh]

/-- Cursors in their tables read inside the buffer, so that the tables are played (R66). -/
theorem playTables_eq {dual : Bool} {s : State} (hp : PlayingReady s) (hw : WaveReady dual s) :
    playTables dual s = .ok (played dual s) := by
  obtain ⟨hndac, hspans⟩ := hp
  obtain ⟨hprimary, hsecondary⟩ := hw
  simp only [tbase, PrimaryReady] at hspans hprimary
  have hfirst : primaryWaveIndex s < s.cfg.bsize.toNat := by
    rw [primaryWaveIndex]
    omega
  rw [playTables, playWord_eq hfirst le_rfl (by omega)]
  cases dual with
  | false => rfl
  | true =>
    have hsecond : secondaryWaveIndex s < s.cfg.bsize.toNat := by
      have hcursor : s.run.wpos2.toNat < s.conf.ws2.toNat := hsecondary rfl
      rw [secondaryWaveIndex]
      omega
    exact (playWord_eq (by exact hsecond) (by decide) (by exact hndac)).trans (by rw [List.append_assoc]; rfl)

theorem advanceCursor_eq {pos size : Word} (h : pos.toNat < size.toNat) :
    advanceCursor pos size = .ok (cyclicNext pos size, decide (pos.toNat + 1 = size.toNat)) := by
  simp only [advanceCursor, increment_of_lt h, add_one_eq_iff_of_lt h, cyclicNext]
  split <;> simp_all

theorem advanceWave_eq {dual : Bool} {s : State} (hw : WaveReady dual s) :
    advanceWave dual s = .ok (endsCycle s, { s with run := cursorsAdvanced dual s }) := by
  obtain ⟨hprimary, hsecondary⟩ := hw
  rw [advanceWave, advanceCursor_eq hprimary]
  cases dual with
  | false => rfl
  | true =>
    dsimp only
    rw [if_pos rfl, advanceCursor_eq (hsecondary rfl)]
    rfl

/-! ### A tick of a wave response (R261) -/

/-- Playing writes the outputs and the event history, so what a run samples, and with what cursors, is as before. -/
theorem played_eq (dual : Bool) (s : State) :
    played dual s = { s with dac := (played dual s).dac, io := (played dual s).io } := by
  cases dual <;> rfl

@[simp] theorem played_run (dual : Bool) (s : State) : (played dual s).run = s.run := by cases dual <;> rfl

/-- Counting a sample writes `SAMPLES`, and what a detachment writes (R192). -/
theorem counted_eq (s : State) :
    counted s = { s with
      run := { s.run with samples := s.run.samples + 1 }
      active := (counted s).active, flags := (counted s).flags, io := (counted s).io } := by
  unfold counted
  split <;> rfl

theorem recordWave_of_repeating {s : State} (h : s.run.wrep ≠ 0) : recordWave s = .ok s := if_neg h

theorem recordWave_of_recording {s : State} (hs : SamplingReady s) (hc : CaptureReady s) (h : s.run.wrep = 0) :
    ∃ mem, Recorded s mem ∧ recordWave s = .ok (counted (sampled s mem)) := by
  obtain ⟨vs, mem, hstore, hrec, -⟩ := storeInputs_of_ready hs hc
  have hcount := countSample_eq (s := sampled s mem) hc.1
  exact ⟨mem, hrec, by simp only [recordWave, h, if_true, hstore, hcount]⟩

/-- What a wave-response tick does after playing and recording: the cursors move on, and the end of a cycle counts a
repetition down while there is one (R261, R262). -/
def waveAdvanced (dual : Bool) (s : State) : State :=
  { s with run := { cursorsAdvanced dual s with
      wrep := if endsCycle s = true ∧ s.run.wrep ≠ 0 then s.run.wrep - 1 else s.run.wrep } }

theorem tickWaveResponse_eq {dual : Bool} {s t : State} (hp : PlayingReady s) (hw : WaveReady dual s)
    (hrec : recordWave (played dual s) = .ok t) (ht : WaveReady dual t) :
    tickWaveResponse dual s = .ok (waveAdvanced dual t) := by
  simp only [tickWaveResponse, playTables_eq hp hw, hrec, advanceWave_eq ht, waveAdvanced, cursorsAdvanced,
    Bool.and_eq_true, decide_eq_true_eq]
  split <;> rfl

/-- With repetitions left a tick plays, and records nothing. -/
theorem tickWaveResponse_of_repeating {dual : Bool} {s : State} (hp : PlayingReady s) (hw : WaveReady dual s)
    (hrep : s.run.wrep ≠ 0) : tickWaveResponse dual s = .ok (waveAdvanced dual (played dual s)) := by
  refine tickWaveResponse_eq hp hw (recordWave_of_repeating (by rwa [played_run])) ?_
  rw [played_eq]
  exact hw

/-- With none left it also records one sample frame. -/
theorem tickWaveResponse_of_recording {dual : Bool} {s : State} (hs : SamplingReady s) (hc : CaptureReady s)
    (hp : PlayingReady s) (hw : WaveReady dual s) (hrep : s.run.wrep = 0) :
    ∃ mem, Recorded s mem ∧
      tickWaveResponse dual s = .ok (waveAdvanced dual (counted (sampled (played dual s) mem))) := by
  have hsp : SamplingReady (played dual s) := by rw [played_eq]; exact hs
  have hcp : CaptureReady (played dual s) := by rw [played_eq]; exact hc
  obtain ⟨mem, hmem, hrec⟩ := recordWave_of_recording hsp hcp (by rwa [played_run])
  refine ⟨mem, ?_, tickWaveResponse_eq hp hw hrec ?_⟩
  · rw [played_eq] at hmem
    exact hmem
  · rw [counted_eq, played_eq]
    exact hw

/-! ### No kernel faults where its run is ready (R66, R134) -/

theorem tickAsync_total {s : State} (hs : SamplingReady s) (hc : CaptureReady s) : ∃ t, tickAsync s = .ok t := by
  obtain ⟨vs, mem, hstore, -⟩ := storeInputs_of_ready hs hc
  have hcount := countSample_eq (s := wrapCursor (sampled s mem)) (by rw [wrapCursor_eq]; exact hc.1)
  simp only [tickAsync, hstore, hcount]
  exact ⟨_, rfl⟩

theorem countSlot_total {s : State} (h : s.run.samples.toNat < s.conf.ns.toNat) : ∃ t, countSlot s = .ok t := by
  have hslot : (s.run.samples.toNat + 1) % s.conf.ns.toNat < 2 ^ 16 :=
    (Nat.mod_lt _ (Nat.zero_lt_of_lt h)).trans s.conf.ns.isLt
  simp only [countSlot, narrow_total hslot]
  exact ⟨_, rfl⟩

/-- Of the four phases only Capture counts, and it has a postsample to count (R232, R233). -/
theorem phaseStep_total {a slot : Word} {s : State} (h : s.run.phase = .capture → s.run.post ≠ 0) :
    ∃ t, phaseStep a slot s = .ok t := by
  unfold phaseStep
  cases hphase : s.run.phase with
  | prefill | armPre | armPost => exact ⟨_, rfl⟩
  | capture =>
    simp only [phaseCapture, decrement_total (h hphase)]
    exact ⟨_, rfl⟩

theorem tickTrig_total {s : State} (hs : SamplingReady s) (hr : KernelReady .kTrig s) : ∃ t, tickTrig s = .ok t := by
  obtain ⟨hc, hpost⟩ := hr
  obtain ⟨vs, mem, hstore, -, hlen⟩ := storeInputs_of_ready hs hc
  obtain ⟨a, vs, rfl⟩ := List.exists_cons_of_length_pos (hlen ▸ hs.1)
  obtain ⟨v, hslot⟩ := countSlot_total (s := wrapCursor (sampled s mem)) (by rw [wrapCursor_eq]; exact hc.1)
  have hleft : (countTimeout v).run.phase = .capture → (countTimeout v).run.post ≠ 0 := by
    rw [countTimeout_eq, (countSlot_ok hslot).1, wrapCursor_eq]
    exact hpost
  obtain ⟨t, hphase⟩ := phaseStep_total (a := a) (slot := (sampled s mem).run.samples) hleft
  simp only [tickTrig, hstore, hslot, hphase]
  split <;> exact ⟨_, rfl⟩

theorem applyStep_total {s : State} (h : 1 ≤ s.cfg.ndac.toNat) : ∃ t, applyStep s = .ok t := by
  unfold applyStep
  split
  · exact ⟨_, dacWrite_total _ le_rfl h⟩
  · exact ⟨_, rfl⟩

theorem tickStepResponse_total {s : State} (hs : SamplingReady s) (hc : CaptureReady s)
    (hdac : 1 ≤ s.cfg.ndac.toNat) : ∃ t, tickStepResponse s = .ok t := by
  obtain ⟨u, hstep⟩ := applyStep_total hdac
  have hu := (applyStep_ok hstep).1
  have hsu : SamplingReady u := by rw [hu]; exact hs
  have hcu : CaptureReady u := by rw [hu]; exact hc
  obtain ⟨vs, mem, hstore, -⟩ := storeInputs_of_ready hsu hcu
  have hcount := countSample_eq (s := sampled u mem) hcu.1
  simp only [tickStepResponse, hstep, hstore, hcount]
  exact ⟨_, rfl⟩

theorem tickWaveResponse_total {dual : Bool} {s : State} (hs : SamplingReady s) (hc : CaptureReady s)
    (hp : PlayingReady s) (hw : WaveReady dual s) : ∃ t, tickWaveResponse dual s = .ok t := by
  by_cases hrep : s.run.wrep = 0
  · obtain ⟨mem, -, htick⟩ := tickWaveResponse_of_recording hs hc hp hw hrep
    exact ⟨_, htick⟩
  · exact ⟨_, tickWaveResponse_of_repeating hp hw hrep⟩

theorem tickWavePlay_total {dual : Bool} {s : State} (hp : PlayingReady s) (hw : WaveReady dual s)
    (hcycles : CyclesReady s) : ∃ t, tickWavePlay dual s = .ok t := by
  have hwp : WaveReady dual (played dual s) := by rw [played_eq]; exact hw
  simp only [tickWavePlay, playTables_eq hp hw, advanceWave_eq hwp]
  split
  next hcount =>
    rw [Bool.and_eq_true, Bool.not_eq_true'] at hcount
    have hleft : (cursorsAdvanced dual (played dual s)).wrep ≠ 0 := by
      rw [played_eq] at hcount ⊢
      exact hcycles hcount.2
    simp only [countCycle, decrement_total hleft]
    exact ⟨_, rfl⟩
  · exact ⟨_, rfl⟩

/-- A kernel whose run is ready runs to its end. -/
theorem kernelBody_total {k : Kernel} {s : State} (hr : KernelReady k s)
    (hs : playsOnly k = false → SamplingReady s) (hp : PlayingReady s) : ∃ t, kernelBody k s = .ok t := by
  cases k with
  | kAsync => exact tickAsync_total (hs rfl) hr
  | kTrig => exact tickTrig_total (hs rfl) hr
  | kStep => exact tickStepResponse_total (hs rfl) hr (Nat.le_of_succ_le hp.1)
  | kWresp | kSwresp =>
    obtain ⟨hcapture, hprimary⟩ := hr
    exact tickWaveResponse_total (hs rfl) hcapture hp ⟨hprimary, nofun⟩
  | kDwresp =>
    obtain ⟨hcapture, hprimary, hsecondary⟩ := hr
    exact tickWaveResponse_total (hs rfl) hcapture hp ⟨hprimary, fun _ => hsecondary⟩
  | kWplay =>
    obtain ⟨hprimary, hcycles⟩ := hr
    exact tickWavePlay_total hp ⟨hprimary, nofun⟩ hcycles
  | kDwplay =>
    obtain ⟨hprimary, hsecondary, hcycles⟩ := hr
    exact tickWavePlay_total hp ⟨hprimary, fun _ => hsecondary⟩ hcycles

/-! ### No step of a good state faults and none is refused (R66, R134, R315) -/

/-- The step has a next state. -/
def Proceeds (r : Result) : Prop := ∃ t, r = .next t

theorem proceeds_next (t : State) : Proceeds (.next t) := ⟨t, rfl⟩

theorem proceeds_ite {p : Prop} [Decidable p] {a b : Result} (ha : p → Proceeds a) (hb : ¬ p → Proceeds b) :
    Proceeds (if p then a else b) := by
  split
  next hp => exact ha hp
  next hp => exact hb hp

theorem proceeds_rxCheck {chk : Byte} {s : State} {f : State → Result} (h : Proceeds (f s)) :
    Proceeds (rxCheck chk s f) :=
  proceeds_ite (fun _ => h) fun _ => proceeds_next _

/-- A refusal is an answer, so only an accepted command is left to look at (R312). -/
theorem proceeds_or_nack {p : Prop} [Decidable p] {s : State} {r : Result} (h : p → Proceeds r) :
    Proceeds (if p then r else .next (raiseNack s)) :=
  proceeds_ite h fun _ => proceeds_next _

theorem startCapture_proceeds {k : Kernel} {x : RunCmd} {nch : BitVec 3} {init : State → Except Fault State}
    {s : State} (h : ∃ t, init (runRegisters (some nch) s) = .ok t) : Proceeds (startCapture k x nch init s) := by
  obtain ⟨t, ht⟩ := h
  refine proceeds_or_nack fun _ => ?_
  rw [ht]
  exact proceeds_next _

/-- The timeout count fits `TOCNT`: with exact arithmetic because the period is legal, else by the width of the
platform's own quotient (R28, R226). -/
theorem timeoutTicks_lt {cfg : Config} {p : Dec} {seconds : Byte} (hl : cfg.Legal)
    (hp : cfg.arith = .exact → periodLegal cfg p = true) : timeoutTicks cfg seconds p < 2 ^ 32 := by
  cases harith : cfg.arith with
  | exact => exact timeoutTicks_lt_of_periodLegal harith hl (hp harith)
  | platform =>
    have hquotient : timeoutQuotient cfg seconds p < 2 ^ 32 := by
      rw [timeoutQuotient, harith]
      exact (Config.platformTicks seconds p).isLt
    unfold timeoutTicks
    dsimp only
    split
    · norm_num
    · exact hquotient

theorem execTrigrd_proceeds {level : Word} {edge seconds chk : Byte} {s : State} (h : RegistersGood s) :
    Proceeds (execTrigrd level edge seconds chk s) := by
  refine proceeds_rxCheck ?_
  split
  · exact proceeds_next _
  · have hticks := timeoutTicks_lt (seconds := seconds) h.legal h.conf.perLegal
    refine startCapture_proceeds ?_
    rw [initTrigger, narrow_total (by exact hticks)]
    exact ⟨_, rfl⟩

theorem execAnawr_proceeds {channel chk : Byte} {v : Word} {s : State} : Proceeds (execAnawr channel v chk s) := by
  refine proceeds_rxCheck (proceeds_or_nack fun hchannel => ?_)
  simp only [numbered, Bool.and_eq_true, decide_eq_true_eq] at hchannel
  obtain ⟨hlow, hhigh⟩ := hchannel
  rw [dacWrite_total v hlow hhigh]
  exact proceeds_next _

theorem execSoftrst_proceeds {chk : Byte} {s : State} : Proceeds (execSoftrst chk s) := by
  obtain ⟨t, ht⟩ := dacWriteAll_total (v := 0) (s := { s with conf := ConfigRegs.initial s.cfg }) (outputs_exist s)
  refine proceeds_rxCheck ?_
  simp only [ht]
  exact proceeds_next _

theorem execLoadp_proceeds {data : List Word} {chk : Byte} {s : State} : Proceeds (execLoadp data chk s) := by
  refine proceeds_ite (fun hfits => ?_) fun _ => proceeds_rxCheck (proceeds_next _)
  obtain ⟨t, ht⟩ := memWriteAll_total (i := 0) (data := data) (s := s) (by simpa [primaryFits] using hfits)
  rw [ht]
  exact proceeds_ite (fun _ => proceeds_next _) fun _ => proceeds_next _

theorem execLoads_proceeds {data : List Word} {chk : Byte} {s : State} : Proceeds (execLoads data chk s) := by
  refine proceeds_ite (fun hfits => ?_) fun _ => proceeds_rxCheck (proceeds_next _)
  obtain ⟨t, ht⟩ := memWriteAll_total (i := s.conf.ws.toNat) (data := data) (s := s)
    (by simpa [secondaryFits, Nat.add_comm] using hfits)
  rw [ht]
  exact proceeds_ite (fun _ => proceeds_next _) fun _ => proceeds_next _

/-- No handler faults: what it writes was checked first, or lies in ranges the registers keep. -/
theorem exec_proceeds (i : Instr) {s : State} (h : RegistersGood s) : Proceeds (exec i s) := by
  cases i with
  | fwstr | magicq | caps | pins | setnavg =>
    simp only [exec, execFwstr, execMagicq, execCaps, execPins, execSetnavg]
    exact proceeds_rxCheck (proceeds_next _)
  | anard | setper | setsto | diowr | diord =>
    simp only [exec, execAnard, execSetper, execSetsto, execDiowr, execDiord]
    exact proceeds_rxCheck (proceeds_or_nack fun _ => proceeds_next _)
  | diomode =>
    simp only [exec, execDiomode]
    exact proceeds_rxCheck (proceeds_ite (fun _ => proceeds_next _) fun _ => proceeds_next _)
  | anawr => exact execAnawr_proceeds
  | softrst => exact execSoftrst_proceeds
  | loadp => exact execLoadp_proceeds
  | loads => exact execLoads_proceeds
  | asyncrd | steprsp =>
    simp only [exec, execAsyncrd, execSteprsp]
    exact proceeds_rxCheck (startCapture_proceeds ⟨_, rfl⟩)
  | trigrd => exact execTrigrd_proceeds h
  | wresp | dwresp | swresp =>
    simp only [exec, execWresp, execDwresp, execSwresp]
    exact proceeds_rxCheck (proceeds_or_nack fun _ => startCapture_proceeds ⟨_, rfl⟩)
  | wplay | dwplay =>
    simp only [exec, execWplay, execDwplay]
    exact proceeds_rxCheck (proceeds_or_nack fun _ => proceeds_next _)

theorem commandStep_proceeds {s : State} (h : s.Inv) : Proceeds (commandStep s) := by
  unfold commandStep
  split
  next i n _ =>
    obtain ⟨link, hs, -⟩ := acceptFrame_frame n s
    rw [hs]
    exact exec_proceeds i { h.registersGood with }
  · exact proceeds_next _
  · exact proceeds_next _

theorem pollStep_proceeds {x : RunCmd} {s : State} (h : s.Inv) (hmpc : s.mpc = .poll x) : Proceeds (pollStep x s) := by
  refine proceeds_ite (fun _ => ?_) fun _ => proceeds_next _
  rw [runReply_reply (h.sendIdle x hmpc) h.ns (h.fits x hmpc)]
  exact proceeds_next _

/-- An attached kernel is that of the run in progress, whose reservation fits (R31, R66). -/
theorem State.Inv.samplingReady {s : State} (h : s.Inv) {k : Kernel} (hk : s.active = some k)
    (hplays : playsOnly k = false) : SamplingReady s := by
  have hfits : runWords s + tbase s ≤ s.cfg.bsize.toNat := by
    cases hmpc : s.mpc with
    | fetch =>
      rw [h.idle hmpc] at hk
      cases hk
    | poll x =>
      obtain ⟨hx, -⟩ | ⟨hnone, -⟩ := h.polling x hmpc
      · rw [hk] at hx
        cases hx
        exact h.fits x hmpc hplays
      · rw [hnone] at hk
        cases hk
  exact ⟨h.nchrunLow, h.nchrunHigh, h.selchLow, h.selchHigh, h.legal.inputs, hfits⟩

theorem tickStep_proceeds {s : State} (h : s.Inv) : Proceeds (tickStep s) := by
  unfold tickStep
  split
  · exact proceeds_next _
  next k hk =>
    refine proceeds_ite (fun _ => proceeds_next _) fun _ => ?_
    obtain ⟨t, ht⟩ := kernelBody_total (s := overrunHandshake s) ((h.ready k hk).of_eq rfl rfl)
      (fun hplays => h.samplingReady hk hplays) ⟨h.legal.outputs, h.spans⟩
    rw [ht]
    exact proceeds_next _

theorem eventStep_proceeds (e : Event) {s : State} (h : s.Inv) : Proceeds (eventStep e s) := by
  cases e with
  | main =>
    cases hmpc : s.mpc with
    | fetch =>
      rw [eventStep, mainStep_of_fetch hmpc]
      exact commandStep_proceeds h
    | poll x =>
      rw [eventStep, mainStep_of_poll hmpc]
      exact pollStep_proceeds h hmpc
  | tick => exact tickStep_proceeds h
  | halt | rx | reset => exact proceeds_next _

/-- Settles O4: the invariant is about no turn, and from it every agent's step proceeds. -/
theorem noFaultFromInvariant : Obligations.NoFaultFromInvariant := by
  intro s hs
  have hturn : (takeTurn s).Inv := { hs with ready := fun k hk => (hs.ready k hk).of_eq rfl rfl }
  exact eventStep_proceeds (nextEvent s) hturn

/-! ### A run and the link (R75, R361) -/

theorem sendCapture_rx {st : Byte} {start : Nat} {s t : State} (h : sendCapture st start s = .ok t) :
    t.link.rx = s.link.rx := by
  unfold sendCapture at h
  split at h
  next hu =>
    obtain rfl := Except.ok.inj h
    have hbytes := sendWords_ok hu
    rw [sendHeader_eq_putBytes, putBytes_append, putBytes_eq] at hbytes
    rw [hbytes]
    rfl
  · cases h

/-- The end of a run sends, and takes no byte (R197). -/
theorem runReply_rx {x : RunCmd} {s t : State} (h : runReply x s = .ok t) : t.link.rx = s.link.rx := by
  cases x with
  | wplay | dwplay =>
    obtain rfl := Except.ok.inj h
    rfl
  | asyncrd | trigrd | steprsp | wresp | dwresp | swresp => exact sendCapture_rx h

/-- A poll writes neither configuration nor buffer, and takes no byte (R75). -/
theorem pollStep_operands {x : RunCmd} {s t : State} (h : pollStep x s = .next t) :
    t.conf = s.conf ∧ (∀ a, byteAt t a = byteAt s a) ∧ t.link.rx = s.link.rx := by
  unfold pollStep at h
  split at h
  · split at h
    next u hu =>
      obtain rfl := Host.Outcome.next.inj h
      have hrx := runReply_rx hu
      obtain ⟨link, rfl⟩ := runReply_link hu
      exact ⟨rfl, fun _ => rfl, hrx⟩
    · cases h
  · obtain rfl := Host.Outcome.next.inj h
    exact ⟨rfl, fun _ => rfl, rfl⟩

/-- A tick writes neither configuration nor wavetable nor link (R38, R75). -/
theorem tickStep_operands {s t : State} (h : tickStep s = .next t) :
    t.conf = s.conf ∧ (∀ a, a < 2 * tbase s → byteAt t a = byteAt s a) ∧ t.link.rx = s.link.rx := by
  obtain ⟨-, rfl⟩ | ⟨k, hk, -⟩ := tickStep_next h
  · exact ⟨rfl, fun _ _ => rfl, rfl⟩
  · obtain ⟨f, -⟩ := tickStep_frame hk h
    exact ⟨f.conf, fun a ha => f.bytes a (.inl ha), congrArg Link.rx f.link⟩

/-- Settles O7, agent by agent. -/
theorem runLeavesOperandsAlone : Obligations.RunLeavesOperandsAlone := by
  intro x e s t hmpc hreset h
  cases e with
  | main =>
    obtain ⟨hconf, hbytes, hrx⟩ := pollStep_operands ((mainStep_of_poll hmpc).symm.trans h)
    exact ⟨hconf, fun a _ => hbytes a, hrx⟩
  | tick => exact tickStep_operands h
  | halt | rx =>
    obtain rfl := Host.Outcome.next.inj h
    exact ⟨rfl, fun _ _ => rfl, rfl⟩
  | reset => exact absurd rfl hreset

/-- A byte from the host, beside a value. -/
def hostByteBeside {α : Type} (b : Byte) (p : α × State) : α × State := (p.1, hostByte b p.2)

/-- `f` does not look at `RX`: a byte that arrives before it, arrives after it as well. With `hostByte` for `after`, `f`
answers a state, with `hostByteBeside` a value and a state. -/
def IgnoresRx {α : Type} (after : Byte → α → α) (f : State → Except Fault α) : Prop :=
  ∀ b s, f (hostByte b s) = (f s).map (after b)

theorem adcRead_ignoresRx (c : Nat) : IgnoresRx hostByteBeside (adcRead c) := by
  intro b s
  unfold adcRead
  rw [hostByte_cfg]
  split <;> rfl

theorem memWrite_ignoresRx (i : Nat) (v : Word) : IgnoresRx hostByte (memWrite i v) := by
  intro b s
  unfold memWrite
  rw [hostByte_cfg]
  split <;> rfl

theorem dacWrite_ignoresRx (d : Nat) (v : Word) : IgnoresRx hostByte (dacWrite d v) := by
  intro b s
  unfold dacWrite
  rw [hostByte_cfg]
  split <;> rfl

theorem storeInput_ignoresRx (c : Nat) : IgnoresRx hostByteBeside (storeInput c) := by
  intro b s
  unfold storeInput
  rw [adcRead_ignoresRx]
  cases adcRead c s with
  | error e => rfl
  | ok p =>
    have hindex : storeIndex (hostByte b p.2) = storeIndex p.2 := rfl
    simp only [Except.map, hostByteBeside, hindex, memWrite_ignoresRx _ _ b _]
    cases memWrite (storeIndex p.2) p.1 p.2 with
    | error e => rfl
    | ok w =>
      simp only [hostByte_run]
      split <;> rfl

theorem storeChannels_ignoresRx (cs : List Nat) : IgnoresRx hostByteBeside (storeChannels cs) := by
  induction cs with
  | nil => exact fun _ _ => rfl
  | cons c cs ih =>
    intro b s
    rw [storeChannels, storeChannels, storeInput_ignoresRx]
    cases storeInput c s with
    | error e => rfl
    | ok p =>
      simp only [Except.map, hostByteBeside, ih b _]
      cases storeChannels cs p.2 <;> rfl

theorem storeInputs_ignoresRx : IgnoresRx hostByteBeside storeInputs :=
  fun b s => storeChannels_ignoresRx (inputChannels s) b s

theorem countSample_ignoresRx : IgnoresRx hostByte countSample := by
  intro b s
  unfold countSample
  rw [hostByte_run]
  cases increment s.run.samples with
  | error e => rfl
  | ok n =>
    simp only [Except.map, hostByte_conf, apply_ite (hostByte b)]
    rfl

theorem wrapCursor_hostByte (b : Byte) (s : State) : wrapCursor (hostByte b s) = hostByte b (wrapCursor s) := by
  rw [wrapCursor_eq, wrapCursor_eq]
  rfl

theorem tickAsync_ignoresRx : IgnoresRx hostByte tickAsync := by
  intro b s
  unfold tickAsync
  rw [storeInputs_ignoresRx]
  cases storeInputs s with
  | error e => rfl
  | ok p => simp only [Except.map, hostByteBeside, wrapCursor_hostByte, countSample_ignoresRx b _]

theorem countSlot_ignoresRx : IgnoresRx hostByte countSlot := by
  intro b s
  unfold countSlot
  rw [hostByte_run, hostByte_conf]
  cases narrow 16 ((s.run.samples.toNat + 1) % s.conf.ns.toNat) <;> rfl

theorem countTimeout_hostByte (b : Byte) (s : State) :
    countTimeout (hostByte b s) = hostByte b (countTimeout s) := by
  unfold countTimeout
  rw [hostByte_trig]
  split <;> rfl

theorem phaseArmPre_hostByte (a : Word) (b : Byte) (s : State) :
    phaseArmPre a (hostByte b s) = hostByte b (phaseArmPre a s) := by
  unfold phaseArmPre
  rw [hostByte_trig]
  split <;> rfl

theorem phaseArmPost_hostByte (a slot : Word) (b : Byte) (s : State) :
    phaseArmPost a slot (hostByte b s) = hostByte b (phaseArmPost a slot s) := by
  unfold phaseArmPost
  rw [hostByte_trig, hostByte_run]
  split
  · dsimp only
    split <;> rfl
  · rfl

theorem phaseCapture_ignoresRx : IgnoresRx hostByte phaseCapture := by
  intro b s
  unfold phaseCapture
  rw [hostByte_run]
  cases decrement s.run.post with
  | error e => rfl
  | ok post =>
    simp only [Except.map, apply_ite (hostByte b)]
    rfl

theorem phaseStep_ignoresRx (a slot : Word) : IgnoresRx hostByte (phaseStep a slot) := by
  intro b s
  unfold phaseStep
  rw [hostByte_run, phaseArmPre_hostByte, phaseArmPost_hostByte, phaseCapture_ignoresRx]
  cases s.run.phase <;> rfl

theorem tickTrig_ignoresRx : IgnoresRx hostByte tickTrig := by
  intro b s
  unfold tickTrig
  rw [storeInputs_ignoresRx]
  cases storeInputs s with
  | error e => rfl
  | ok p =>
    obtain ⟨_ | ⟨a, vs⟩, u⟩ := p
    · rfl
    · simp only [Except.map, hostByteBeside, wrapCursor_hostByte, countSlot_ignoresRx b _, hostByte_run]
      cases countSlot (wrapCursor u) with
      | error e => rfl
      | ok v =>
        have htimes : timesOut (hostByte b v) = timesOut v := rfl
        simp only [Except.map, htimes, countTimeout_hostByte, phaseStep_ignoresRx _ _ b _]
        split <;> rfl

theorem applyStep_ignoresRx : IgnoresRx hostByte applyStep := by
  intro b s
  unfold applyStep
  rw [hostByte_run, dacWrite_ignoresRx]
  split <;> rfl

theorem tickStepResponse_ignoresRx : IgnoresRx hostByte tickStepResponse := by
  intro b s
  unfold tickStepResponse
  rw [applyStep_ignoresRx]
  cases applyStep s with
  | error e => rfl
  | ok u =>
    simp only [Except.map, storeInputs_ignoresRx b _]
    cases storeInputs u with
    | error e => rfl
    | ok p => simp only [Except.map, hostByteBeside, countSample_ignoresRx b _]

theorem playWord_ignoresRx (d i : Nat) : IgnoresRx hostByte (playWord d i) := by
  intro b s
  have hread : memRead i (hostByte b s) = memRead i s := rfl
  unfold playWord
  rw [hread]
  cases memRead i s with
  | error e => rfl
  | ok v => exact dacWrite_ignoresRx d v b s

theorem playTables_ignoresRx (dual : Bool) : IgnoresRx hostByte (playTables dual) := by
  intro b s
  have hprimary : primaryWaveIndex (hostByte b s) = primaryWaveIndex s := rfl
  unfold playTables
  rw [hprimary, playWord_ignoresRx]
  cases playWord 1 (primaryWaveIndex s) s with
  | error e => rfl
  | ok u =>
    cases dual with
    | false => rfl
    | true => exact playWord_ignoresRx 2 (secondaryWaveIndex u) b u

theorem advanceWave_ignoresRx (dual : Bool) : IgnoresRx hostByteBeside (advanceWave dual) := by
  intro b s
  unfold advanceWave
  rw [hostByte_run, hostByte_conf]
  cases advanceCursor s.run.wpos s.conf.ws with
  | error e => rfl
  | ok p =>
    cases dual with
    | false => rfl
    | true =>
      simp only [if_true]
      cases advanceCursor s.run.wpos2 s.conf.ws2 <;> rfl

theorem recordWave_ignoresRx : IgnoresRx hostByte recordWave := by
  intro b s
  unfold recordWave
  rw [hostByte_run, storeInputs_ignoresRx]
  split
  · cases storeInputs s with
    | error e => rfl
    | ok p => simp only [Except.map, hostByteBeside, countSample_ignoresRx b _]
  · rfl

theorem tickWaveResponse_ignoresRx (dual : Bool) : IgnoresRx hostByte (tickWaveResponse dual) := by
  intro b s
  unfold tickWaveResponse
  rw [playTables_ignoresRx]
  cases playTables dual s with
  | error e => rfl
  | ok u =>
    simp only [Except.map, recordWave_ignoresRx b _]
    cases recordWave u with
    | error e => rfl
    | ok v =>
      simp only [Except.map, advanceWave_ignoresRx dual b _]
      cases advanceWave dual v with
      | error e => rfl
      | ok p =>
        show (if (p.1 && decide (p.2.run.wrep ≠ 0)) = true then _ else _) =
          Except.map (hostByte b) (if (p.1 && decide (p.2.run.wrep ≠ 0)) = true then _ else _)
        split <;> rfl

theorem countCycle_ignoresRx : IgnoresRx hostByte countCycle := by
  intro b s
  unfold countCycle
  rw [hostByte_run]
  cases decrement s.run.wrep with
  | error e => rfl
  | ok n =>
    simp only [Except.map, apply_ite (hostByte b)]
    rfl

theorem tickWavePlay_ignoresRx (dual : Bool) : IgnoresRx hostByte (tickWavePlay dual) := by
  intro b s
  unfold tickWavePlay
  rw [playTables_ignoresRx]
  cases playTables dual s with
  | error e => rfl
  | ok u =>
    simp only [Except.map, advanceWave_ignoresRx dual b _]
    cases advanceWave dual u with
    | error e => rfl
    | ok p =>
      simp only [Except.map, hostByteBeside, hostByte_run, countCycle_ignoresRx b _]
      split <;> rfl

theorem kernelBody_ignoresRx (k : Kernel) : IgnoresRx hostByte (kernelBody k) := by
  cases k with
  | kAsync => exact tickAsync_ignoresRx
  | kTrig => exact tickTrig_ignoresRx
  | kStep => exact tickStepResponse_ignoresRx
  | kWresp | kDwresp | kSwresp => exact tickWaveResponse_ignoresRx _
  | kWplay | kDwplay => exact tickWavePlay_ignoresRx _

/-- What an operation answers, it answers with the byte waiting too. -/
theorem IgnoresRx.ok {f : State → Except Fault State} (hf : IgnoresRx hostByte f) {s t : State}
    (h : f s = .ok t) (b : Byte) : f (hostByte b s) = .ok (hostByte b t) := by
  rw [hf, h]
  rfl

theorem tickStep_hostByte {s t : State} (h : tickStep s = .next t) (b : Byte) :
    tickStep (hostByte b s) = .next (hostByte b t) := by
  obtain ⟨hnone, rfl⟩ | ⟨k, hk, -⟩ := tickStep_next h
  · rw [tickStep, hostByte_active, hnone]
  · have hstart : overrunHandshake (hostByte b s) = hostByte b (overrunHandshake s) := rfl
    simp only [tickStep, hostByte_active, hk, hstart, hostByte_flags] at h ⊢
    split at h
    next hhalt =>
      obtain rfl := Host.Outcome.next.inj h
      rw [if_pos hhalt]
      rfl
    next hhalt => rw [if_neg hhalt, (kernelBody_ignoresRx k).ok (settle_next h) b, settle_ok]

theorem sendWords_ignoresRx (is : List Nat) : IgnoresRx hostByte (sendWords is) := by
  induction is with
  | nil => exact fun _ _ => rfl
  | cons i is ih =>
    intro b s
    have hread : memRead i (hostByte b s) = memRead i s := rfl
    rw [sendWords, sendWords, hread]
    cases memRead i s with
    | error e => rfl
    | ok v => exact ih b (putU16 v s)

theorem sendCapture_ignoresRx (st : Byte) (start : Nat) : IgnoresRx hostByte (sendCapture st start) := by
  intro b s
  have hsend := sendWords_ignoresRx (drainIndices s start) b (sendHeader st s)
  have hstart : sendWords (drainIndices (hostByte b s) start) (sendHeader st (hostByte b s)) =
      sendWords (drainIndices s start) (hostByte b (sendHeader st s)) := rfl
  rw [sendCapture, sendCapture, hstart, hsend]
  cases sendWords (drainIndices s start) (sendHeader st s) <;> rfl

theorem runReply_ignoresRx (x : RunCmd) : IgnoresRx hostByte (runReply x) := by
  intro b s
  cases x with
  | wplay | dwplay => rfl
  | trigrd => exact sendCapture_ignoresRx (status s) (triggerStart s) b s
  | asyncrd | steprsp | wresp | dwresp | swresp => exact sendCapture_ignoresRx (status s) 0 b s

theorem pollStep_hostByte {x : RunCmd} {s t : State} (h : pollStep x s = .next t) (b : Byte) :
    pollStep x (hostByte b s) = .next (hostByte b t) := by
  unfold pollStep at h ⊢
  rw [hostByte_flags]
  split at h
  next hdone =>
    rw [if_pos hdone]
    split at h
    next hreply =>
      obtain rfl := Host.Outcome.next.inj h
      rw [(runReply_ignoresRx x).ok hreply b]
      rfl
    · cases h
  next hdone =>
    obtain rfl := Host.Outcome.next.inj h
    rw [if_neg hdone]
    rfl

/-- Settles O8: polls, ticks and halt edges commute with the arrival of a byte. -/
theorem runIgnoresHostBytes : Obligations.RunIgnoresHostBytes := by
  intro x b e s t hmpc he h
  obtain rfl | rfl | rfl := he
  · have hpoll : pollStep x s = .next t := (mainStep_of_poll hmpc).symm.trans h
    rw [eventStep, mainStep_of_poll (x := x) (by exact hmpc)]
    exact pollStep_hostByte hpoll b
  · exact tickStep_hostByte h b
  · obtain rfl := Host.Outcome.next.inj h
    rfl

/-! ### The course of a wave response (R261, R262)

The state after `n` ticks of a run of `R` repetitions is described in three parts: what stays, what was played, and
what was recorded. A tick that only repeats moves the second on, a tick that records moves both. -/

/-- One more step in a cycle of `w`: it ends the cycle, or goes on in it. -/
theorem div_mod_succ {w : Nat} (hw : 0 < w) (n : Nat) :
    if n % w + 1 = w then (n + 1) / w = n / w + 1 ∧ (n + 1) % w = 0
    else (n + 1) / w = n / w ∧ (n + 1) % w = n % w + 1 := by
  have hlt := Nat.mod_lt n hw
  have hn := Nat.mod_add_div n w
  split
  next hend =>
    refine (Nat.div_mod_unique hw).mpr ⟨?_, hw⟩
    rw [Nat.mul_succ]
    omega
  next hend => exact (Nat.div_mod_unique hw).mpr ⟨by omega, by omega⟩

/-- A cursor that goes round its table stands at the number of steps modulo the table's size (R262). -/
theorem cyclicNext_toNat {pos size : Word} {n : Nat} (hsize : 0 < size.toNat) (hpos : pos.toNat = n % size.toNat) :
    (cyclicNext pos size).toNat = (n + 1) % size.toNat := by
  have hlt : pos.toNat < size.toNat := hpos ▸ Nat.mod_lt n hsize
  have hstep := div_mod_succ hsize n
  rw [← hpos] at hstep
  unfold cyclicNext
  split
  next hend =>
    rw [if_pos hend] at hstep
    exact hstep.2.symm
  next hend =>
    rw [if_neg hend] at hstep
    rw [toNat_add_one_of_lt hlt, hstep.2]

/-- What the output events sent to output 1. -/
def firstOutput : OutEvent → Option Word
  | .dac 1 v => some v
  | _ => none

/-- What the output events sent to output 2. -/
def secondOutput : OutEvent → Option Word
  | .dac 2 v => some v
  | _ => none

theorem firstOutput_played (dual : Bool) (s : State) :
    (played dual s).io.filterMap firstOutput = s.io.filterMap firstOutput ++ [wordAt s (primaryWaveIndex s)] := by
  cases dual <;> simp [played, firstOutput, List.filterMap_append]

theorem secondOutput_played (dual : Bool) (s : State) :
    (played dual s).io.filterMap secondOutput =
      s.io.filterMap secondOutput ++ if dual then [wordAt s (secondaryWaveIndex s)] else [] := by
  cases dual <;> simp [played, secondOutput, List.filterMap_append]

theorem counted_active (s : State) :
    (counted s).active = if s.run.samples.toNat + 1 = s.conf.ns.toNat then none else s.active := by
  unfold counted
  split <;> rfl

/-- Sampling and counting send nothing to an output. -/
theorem outputs_counted_sampled (s : State) (mem : Memory) {f : OutEvent → Option Word}
    (hadc : ∀ c, f (.adcRead c) = none) (htimer : f .timerDetach = none) :
    (counted (sampled s mem)).io.filterMap f = s.io.filterMap f := by
  have hreads : ((inputChannels s).map OutEvent.adcRead).filterMap f = [] := by
    simp [List.filterMap_map, hadc]
  unfold counted
  split <;> simp [sampled, detach, hreads, htimer, List.filterMap_append]

/-- What a run of a wave response starts from: R264 to R266, with the reservation of R194. -/
structure WaveStart (dual : Bool) (s : State) : Prop where
  kernel : ∃ k, s.active = some k ∧ kernelBody k = tickWaveResponse dual
  done : s.flags.done = false
  halt : s.flags.halt = false
  sampling : SamplingReady s
  playing : PlayingReady s
  wpos : s.run.wpos = 0
  samples : s.run.samples = 0
  cur : s.run.cur = 0
  ns : 0 < s.conf.ns.toNat
  ws : 0 < s.conf.ws.toNat
  second : dual = true → s.run.wpos2 = 0 ∧ 0 < s.conf.ws2.toNat

/-- The ticks of the whole run: the repeated cycles, then one per sample frame. -/
def waveTicks (s : State) : Nat := s.run.wrep.toNat * s.conf.ws.toNat + s.conf.ns.toNat

/-- The sample frames recorded in `n` ticks. -/
def framesAfter (s : State) (n : Nat) : Nat := n - s.run.wrep.toNat * s.conf.ws.toNat

/-- What a run leaves as it was at its start. -/
structure WaveKept (s t : State) : Prop where
  cfg : t.cfg = s.cfg
  conf : t.conf = s.conf
  mpc : t.mpc = s.mpc
  resets : t.resets = s.resets
  halt : t.flags.halt = s.flags.halt
  nchrun : t.run.nchrun = s.run.nchrun
  selch : t.run.selch = s.run.selch

/-- The cursors after `n` steps, and the repetitions left. -/
structure WaveCursors (dual : Bool) (s : State) (n : Nat) (t : State) : Prop where
  wpos : t.run.wpos.toNat = n % s.conf.ws.toNat
  wpos2 : dual = true → t.run.wpos2.toNat = n % s.conf.ws2.toNat
  wrep : t.run.wrep.toNat = s.run.wrep.toNat - n / s.conf.ws.toNat

/-- The outputs have been sent `n` words of their tables, cyclically. -/
structure WavePlayed (dual : Bool) (s : State) (n : Nat) (t : State) : Prop where
  first : t.io.filterMap firstOutput =
    s.io.filterMap firstOutput ++ (List.range n).map fun j => wordAt s (j % s.conf.ws.toNat)
  second : t.io.filterMap secondOutput = s.io.filterMap secondOutput ++
    if dual then (List.range n).map fun j => wordAt s (s.conf.ws.toNat + j % s.conf.ws2.toNat) else []

/-- The channel a run reads for offset `c` of a frame (R195, R266). -/
def channelAt (s : State) (c : Nat) : Nat := if s.active = some .kSwresp then s.run.selch.toNat else c + 1

/-- `m` sample frames have been recorded. -/
structure WaveRecorded (s : State) (m : Nat) (t : State) : Prop where
  samples : t.run.samples.toNat = m
  cur : t.run.cur.toNat = m * s.run.nchrun.toNat
  answers : t.env.adc = s.env.adc.drop (m * s.run.nchrun.toNat)
  calls : t.env.calls = s.env.calls + m * s.run.nchrun.toNat
  words : ∀ j c, j < m → c < s.run.nchrun.toNat →
    wordAt t (slotIndex s j c) = nextSample s (j * s.run.nchrun.toNat + c) (channelAt s c)
  bytes : ∀ a, a < 2 * tbase s ∨ 2 * (tbase s + m * s.run.nchrun.toNat) ≤ a → byteAt t a = byteAt s a

/-- The state after `n` ticks of a wave response that started in `s`. -/
structure WaveProgress (dual : Bool) (s : State) (n : Nat) (t : State) : Prop where
  kept : WaveKept s t
  cursors : WaveCursors dual s n t
  played : WavePlayed dual s n t
  recorded : WaveRecorded s (framesAfter s n) t
  active : t.active = if n < waveTicks s then s.active else none
  done : n < waveTicks s → t.flags.done = s.flags.done

theorem waveProgress_zero {dual : Bool} {s : State} (h : WaveStart dual s) : WaveProgress dual s 0 s where
  kept := ⟨rfl, rfl, rfl, rfl, rfl, rfl, rfl⟩
  cursors := {
    wpos := by rw [h.wpos, Nat.zero_mod]; rfl
    wpos2 := fun hdual => by rw [(h.second hdual).1, Nat.zero_mod]; rfl
    wrep := by rw [Nat.zero_div, Nat.sub_zero] }
  played := { first := by simp, second := by cases dual <;> simp }
  recorded := by
    rw [framesAfter, Nat.zero_sub]
    exact {
      samples := by rw [h.samples]; rfl
      cur := by rw [h.cur, Nat.zero_mul]; rfl
      answers := by rw [Nat.zero_mul, List.drop_zero]
      calls := by rw [Nat.zero_mul, Nat.add_zero]
      words := nofun
      bytes := fun _ _ => rfl }
  active := (if_pos (Nat.add_pos_right _ h.ns)).symm
  done := fun _ => rfl

/-- What the next tick plays: the tables lie below the recorded frames, so their words are those of the start. -/
theorem WaveRecorded.wordAt_table {s t : State} {m i : Nat} (h : WaveRecorded s m t) (hi : i < tbase s) :
    wordAt t i = wordAt s i := by
  rw [wordAt, wordAt, h.bytes _ (.inl (by omega)), h.bytes _ (.inl (by omega))]

/-- The answers of the environment are used up in order (R330). -/
theorem WaveRecorded.nextSample_eq {s t : State} {m : Nat} (h : WaveRecorded s m t) (c ch : Nat) :
    nextSample t c ch = nextSample s (m * s.run.nchrun.toNat + c) ch := by
  rw [nextSample, nextSample, h.answers, h.calls, List.getD_eq_getElem?_getD, List.getElem?_drop,
    ← List.getD_eq_getElem?_getD, Nat.add_assoc]

section Tick

variable {dual : Bool} {s t : State} {n : Nat}

theorem WaveProgress.samplingReady (h : WaveProgress dual s n t) (hs : WaveStart dual s) : SamplingReady t := by
  obtain ⟨hcfg, hconf, -, -, -, hnchrun, hselch⟩ := h.kept
  have hready := hs.sampling
  rwa [SamplingReady, runWords, tbase, hcfg, hconf, hnchrun, hselch]

theorem WaveProgress.playingReady (h : WaveProgress dual s n t) (hs : WaveStart dual s) : PlayingReady t := by
  have hready := hs.playing
  rwa [PlayingReady, tbase, h.kept.cfg, h.kept.conf]

theorem WaveProgress.captureReady (h : WaveProgress dual s n t) (hs : WaveStart dual s) (hn : n < waveTicks s) :
    CaptureReady t := by
  have hns := hs.ns
  rw [waveTicks] at hn
  rw [CaptureReady, h.recorded.samples, h.recorded.cur, h.kept.conf, h.kept.nchrun, framesAfter]
  exact ⟨by omega, rfl⟩

/-- The cursor stands behind the frames recorded so far (R42, R65). -/
theorem WaveProgress.storeIndex_eq (h : WaveProgress dual s n t) :
    storeIndex t = tbase s + framesAfter s n * s.run.nchrun.toNat := by
  rw [storeIndex, tbase, h.kept.conf, h.recorded.cur, tbase]

theorem WaveProgress.waveReady (h : WaveProgress dual s n t) (hs : WaveStart dual s) : WaveReady dual t := by
  refine ⟨?_, fun hdual => ?_⟩
  · rw [PrimaryReady, h.cursors.wpos, h.kept.conf]
    exact Nat.mod_lt n hs.ws
  · rw [SecondaryReady, h.cursors.wpos2 hdual, h.kept.conf]
    exact Nat.mod_lt n (hs.second hdual).2

/-- Repetitions are left exactly while the ticks do not fill the repeated cycles. -/
theorem WaveProgress.repeating_iff (h : WaveProgress dual s n t) (hs : WaveStart dual s) :
    t.run.wrep ≠ 0 ↔ n < s.run.wrep.toNat * s.conf.ws.toNat := by
  have hzero : t.run.wrep = 0 ↔ t.run.wrep.toNat = 0 := BitVec.toNat_inj.symm
  rw [← Nat.div_lt_iff_lt_mul hs.ws, ne_eq, hzero, h.cursors.wrep]
  omega

theorem WaveCursors.succ {v : State} (h : WaveCursors dual s n v) (hs : WaveStart dual s) (hconf : v.conf = s.conf) :
    WaveCursors dual s (n + 1) (waveAdvanced dual v) where
  wpos := by
    show (cyclicNext v.run.wpos v.conf.ws).toNat = _
    rw [hconf]
    exact cyclicNext_toNat hs.ws h.wpos
  wpos2 hdual := by
    show (if dual then cyclicNext v.run.wpos2 v.conf.ws2 else v.run.wpos2).toNat = _
    rw [if_pos hdual, hconf]
    exact cyclicNext_toNat (hs.second hdual).2 (h.wpos2 hdual)
  wrep := by
    have hstep := div_mod_succ hs.ws n
    have hleft := h.wrep
    have hends : endsCycle v = true ↔ n % s.conf.ws.toNat + 1 = s.conf.ws.toNat := by
      rw [endsCycle, decide_eq_true_eq, h.wpos, hconf]
    show (if endsCycle v = true ∧ v.run.wrep ≠ 0 then v.run.wrep - 1 else v.run.wrep).toNat = _
    by_cases hend : endsCycle v = true
    · rw [if_pos (hends.mp hend)] at hstep
      by_cases hzero : v.run.wrep = 0
      · have hnone : v.run.wrep.toNat = 0 := by rw [hzero]; rfl
        rw [if_neg (fun hcount => hcount.2 hzero), hnone, hstep.1]
        omega
      · rw [if_pos ⟨hend, hzero⟩, toNat_sub_one hzero, hleft, hstep.1, Nat.sub_sub]
    · rw [if_neg (hends.not.mp hend)] at hstep
      rw [if_neg (fun hcount => hend hcount.1), hleft, hstep.1]

/-- A tick plays one more word of each table, from below the recorded frames (R66). -/
theorem WaveProgress.played_succ (h : WaveProgress dual s n t) (hs : WaveStart dual s) :
    WavePlayed dual s (n + 1) (Machine.played dual t) where
  first := by
    have hindex : n % s.conf.ws.toNat < tbase s := Nat.lt_add_right _ (Nat.mod_lt n hs.ws)
    rw [firstOutput_played, primaryWaveIndex, h.cursors.wpos, h.recorded.wordAt_table hindex, h.played.first,
      List.range_succ, List.map_append, List.append_assoc]
    rfl
  second := by
    rw [secondOutput_played, h.played.second]
    cases dual with
    | false => simp
    | true =>
      have hindex : s.conf.ws.toNat + n % s.conf.ws2.toNat < tbase s :=
        Nat.add_lt_add_left (Nat.mod_lt n (hs.second rfl).2) _
      rw [secondaryWaveIndex, h.cursors.wpos2 rfl, h.kept.conf, h.recorded.wordAt_table hindex, if_pos rfl, if_pos rfl,
        if_pos rfl, List.range_succ, List.map_append, List.append_assoc]
      rfl

theorem inputChannels_getElem? (s : State) {c : Nat} (hc : c < s.run.nchrun.toNat) :
    (inputChannels s)[c]? = some (channelAt s c) := by
  simp [inputChannels, hc, channelAt]

/-- A frame recorded behind `m` others leaves these and lands in slot `m` (R67, R195). -/
theorem WaveProgress.words_succ (h : WaveProgress dual s n t) (hn : n < waveTicks s) {mem : Memory}
    (hmem : Recorded t mem) {j c : Nat} (hj : j < framesAfter s n + 1) (hc : c < s.run.nchrun.toNat) :
    wordAt { t with mem := mem } (slotIndex s j c) =
      nextSample s (j * s.run.nchrun.toNat + c) (channelAt s c) := by
  obtain ⟨hwords, hbytes⟩ := hmem
  have hchannel : channelAt t c = channelAt s c := by
    rw [channelAt, channelAt, h.active, if_pos hn, h.kept.selch]
  rw [h.storeIndex_eq, h.kept.nchrun] at hbytes
  obtain rfl | hbefore : j = framesAfter s n ∨ j < framesAfter s n := by omega
  · have hword := hwords c (channelAt t c) (inputChannels_getElem? t (by rwa [h.kept.nchrun]))
    rw [h.storeIndex_eq, h.recorded.nextSample_eq, hchannel] at hword
    exact hword
  · have hslot : slotIndex s j c < tbase s + framesAfter s n * s.run.nchrun.toNat := by
      have hle : (j + 1) * s.run.nchrun.toNat ≤ framesAfter s n * s.run.nchrun.toNat :=
        Nat.mul_le_mul_right _ hbefore
      rw [Nat.succ_mul] at hle
      rw [slotIndex]
      omega
    rw [wordAt, hbytes _ (.inl (by omega)), hbytes _ (.inl (by omega))]
    exact h.recorded.words j c hbefore hc

/-- A tick that records adds one frame behind those recorded before. -/
theorem WaveProgress.recorded_succ (h : WaveProgress dual s n t) (hs : WaveStart dual s) (hn : n < waveTicks s)
    {mem : Memory} (hmem : Recorded t mem) : WaveRecorded s (framesAfter s n + 1) (counted (sampled t mem)) := by
  have hcapture := h.captureReady hs hn
  have hfits := storeIndex_fits (h.samplingReady hs) hcapture
  have hsize := t.cfg.bsize.isLt
  have hnchrun := h.kept.nchrun
  have hr := h.recorded
  rw [h.storeIndex_eq, hnchrun] at hfits
  rw [counted_eq]
  exact {
    samples := by
      show (t.run.samples + 1).toNat = _
      rw [toNat_add_one_of_lt hcapture.1, hr.samples]
    cur := by
      show (BitVec.ofNat 16 (t.run.cur.toNat + t.run.nchrun.toNat)).toNat = _
      rw [hr.cur, hnchrun, Nat.succ_mul, BitVec.toNat_ofNat, Nat.mod_eq_of_lt (by omega)]
    answers := by
      show t.env.adc.drop t.run.nchrun.toNat = _
      rw [hr.answers, hnchrun, List.drop_drop, Nat.succ_mul]
    calls := by
      show t.env.calls + t.run.nchrun.toNat = _
      rw [hr.calls, hnchrun, Nat.succ_mul, Nat.add_assoc]
    words := fun j c hj hc => h.words_succ hn hmem hj hc
    bytes := fun a ha => by
      have hframe := hmem.2 a
      have hnext := Nat.add_one_mul (framesAfter s n) s.run.nchrun.toNat
      rw [h.storeIndex_eq, hnchrun] at hframe
      exact (hframe (by omega)).trans (hr.bytes a (by omega)) }

/-- The body of one tick of the run, while it repeats and while it records (R261). -/
theorem WaveProgress.body (h : WaveProgress dual s n t) (hs : WaveStart dual s) (hn : n < waveTicks s) :
    ∃ u, tickWaveResponse dual t = .ok u ∧ WaveCursors dual s (n + 1) u ∧ WavePlayed dual s (n + 1) u ∧
      WaveRecorded s (framesAfter s (n + 1)) u ∧ u.active = if n + 1 < waveTicks s then s.active else none := by
  have hplayed := h.played_succ hs
  have hsplit := h.repeating_iff hs
  have hns := hs.ns
  by_cases hrep : t.run.wrep = 0
  · obtain ⟨mem, hmem, htick⟩ := tickWaveResponse_of_recording (h.samplingReady hs) (h.captureReady hs hn)
      (h.playingReady hs) (h.waveReady hs) hrep
    have hrepeated : s.run.wrep.toNat * s.conf.ws.toNat ≤ n := Nat.le_of_not_lt (hsplit.not.mp (not_not_intro hrep))
    have hframes : framesAfter s (n + 1) = framesAfter s n + 1 := Nat.sub_add_comm hrepeated
    have hlast : framesAfter s n + 1 = s.conf.ns.toNat ↔ ¬ n + 1 < waveTicks s := by
      rw [waveTicks] at hn ⊢
      rw [framesAfter]
      omega
    refine ⟨_, htick, .succ ?_ hs ?_, ⟨?_, ?_⟩, ?_, ?_⟩
    · rw [counted_eq, played_eq]
      exact { h.cursors with }
    · rw [counted_eq, played_eq]
      exact h.kept.conf
    · exact (outputs_counted_sampled _ mem (fun _ => rfl) rfl).trans hplayed.first
    · exact (outputs_counted_sampled _ mem (fun _ => rfl) rfl).trans hplayed.second
    · have hrecorded := h.recorded_succ hs hn hmem
      rw [hframes, waveAdvanced, counted_eq, played_eq]
      rw [counted_eq] at hrecorded
      exact { hrecorded with }
    · rw [waveAdvanced, counted_active, played_eq]
      show (if t.run.samples.toNat + 1 = t.conf.ns.toNat then none else t.active) = _
      rw [h.recorded.samples, h.kept.conf, h.active, if_pos hn]
      simp only [hlast, ite_not]
  · have hbefore := hsplit.mp hrep
    have hframes : framesAfter s (n + 1) = framesAfter s n := by
      rw [framesAfter, framesAfter]
      omega
    have hlast : n + 1 < waveTicks s := by
      rw [waveTicks]
      omega
    refine ⟨_, tickWaveResponse_of_repeating (h.playingReady hs) (h.waveReady hs) hrep, .succ ?_ hs ?_,
      ⟨hplayed.first, hplayed.second⟩, ?_, ?_⟩
    · rw [played_eq]
      exact { h.cursors with }
    · rw [played_eq]
      exact h.kept.conf
    · rw [hframes, waveAdvanced, played_eq]
      exact { h.recorded with }
    · rw [waveAdvanced, played_eq, if_pos hlast]
      exact h.active.trans (if_pos hn)

/-- The overrun flags are the polls' matter and no part of the run's progress (R193, R196). -/
theorem WaveProgress.overrun (h : WaveProgress dual s n t) (ovr ovrErr : Bool) :
    WaveProgress dual s n { t with flags := { t.flags with ovr := ovr, ovrErr := ovrErr } } :=
  { h with
    kept := { h.kept with }
    cursors := { h.cursors with }
    played := { h.played with }
    recorded := { h.recorded with } }

/-- One tick of the run. -/
theorem WaveProgress.tick (h : WaveProgress dual s n t) (hs : WaveStart dual s) (hn : n < waveTicks s) :
    ∃ u, eventStep .tick t = .next u ∧ WaveProgress dual s (n + 1) u := by
  obtain ⟨k, hk, hbody⟩ := hs.kernel
  have hactive : t.active = some k := by rw [h.active, if_pos hn, hk]
  have hhalt : (overrunHandshake t).flags.halt = false := h.kept.halt.trans hs.halt
  have hstarted : WaveProgress dual s n (overrunHandshake t) := h.overrun true (t.flags.ovrErr || t.flags.ovr)
  obtain ⟨u, hu, hcursors, hplayed, hrecorded, hlast⟩ := hstarted.body hs hn
  have htick : tickStep t = .next u := by
    simp only [tickStep, hactive, hhalt, hbody, hu, settle_ok, Bool.false_eq_true, if_false]
  obtain ⟨f, -⟩ := tickStep_frame hactive htick
  refine ⟨u, htick, {
    kept := ⟨f.cfg.trans h.kept.cfg, f.conf.trans h.kept.conf, f.mpc.trans h.kept.mpc, f.resets.trans h.kept.resets,
      f.halt.trans h.kept.halt, f.nchrun.trans h.kept.nchrun, f.selch.trans h.kept.selch⟩
    cursors := hcursors, played := hplayed, recorded := hrecorded, active := hlast
    done := fun hnext => ?_ }⟩
  obtain ⟨-, hdone⟩ | ⟨hended, -⟩ := f.ended
  · exact hdone.trans (h.done hn)
  · rw [hlast, if_pos hnext, hk] at hended
    cases hended

/-- A poll while the run is in progress touches nothing of it (R196). -/
theorem WaveProgress.poll (h : WaveProgress dual s n t) (hs : WaveStart dual s) (hn : n < waveTicks s) {x : RunCmd}
    (hmpc : s.mpc = .poll x) : ∃ u, eventStep .main t = .next u ∧ WaveProgress dual s n u := by
  have hdone : ¬ t.flags.done = true := by rw [h.done hn, hs.done]; exact nofun
  refine ⟨acknowledgeTick t, ?_, h.overrun false t.flags.ovrErr⟩
  rw [eventStep, mainStep_of_poll (h.kept.mpc.trans hmpc), pollStep, if_neg hdone]

end Tick

theorem runEvents_append {es fs : List Event} {s t : State} (h : runEvents es s = .next t) :
    runEvents (es ++ fs) s = runEvents fs t := by
  induction es generalizing s with
  | nil =>
    obtain rfl := Host.Outcome.next.inj h
    rfl
  | cons e es ih =>
    rw [List.cons_append, runEvents]
    rw [runEvents] at h
    split at h
    · exact ih h
    · cases h
    · cases h

/-- Polls and ticks, up to the run's last tick, take the run as far as there are ticks, however the polls fall. -/
theorem waveProgress_of_runEvents {dual : Bool} {s : State} {x : RunCmd} (hs : WaveStart dual s)
    (hmpc : s.mpc = .poll x) (es : List Event) (hes : PollsAndTicks es) (hle : es.count .tick ≤ waveTicks s)
    (hlast : es.count .tick = waveTicks s → es.getLast? = some .tick) :
    ∃ t, runEvents es s = .next t ∧ WaveProgress dual s (es.count .tick) t := by
  induction es using List.reverseRecOn with
  | nil => exact ⟨s, rfl, waveProgress_zero hs⟩
  | append_singleton es e ih =>
    have hbefore : es.count .tick < waveTicks s := by
      obtain rfl | rfl := hes e (by simp)
      · refine lt_of_le_of_ne (by simpa using hle) fun hfull => ?_
        exact absurd (hlast (by simpa using hfull)) (by simp)
      · simpa using hle
    obtain ⟨t, ht, hprogress⟩ := ih (fun e' he' => hes e' (List.mem_append_left _ he')) hbefore.le
      fun hfull => absurd hfull hbefore.ne
    have hstep : ∃ u, eventStep e t = .next u ∧ WaveProgress dual s ((es ++ [e]).count .tick) u := by
      obtain rfl | rfl := hes e (by simp)
      · simpa using hprogress.poll hs hbefore hmpc
      · simpa using hprogress.tick hs hbefore
    obtain ⟨u, hu, hprogress'⟩ := hstep
    exact ⟨u, by rw [runEvents_append ht, runEvents, hu]; rfl, hprogress'⟩

/-- Settles O57: the run's course at the number of ticks in the schedule. -/
theorem waveResponseRecordsAfterRepeats : Obligations.WaveResponseRecordsAfterRepeats := by
  intro es s dual x hes hkernel hmpc hdone hhalt hsampling hplaying hwpos hsamples hcur hns hws hsecond hle hlast
  have hs : WaveStart dual s := {
    kernel := by
      obtain hk | ⟨rfl, hk⟩ := hkernel
      · exact ⟨_, hk, by cases dual <;> rfl⟩
      · exact ⟨_, hk, rfl⟩
    done := hdone, halt := hhalt, sampling := hsampling, playing := hplaying, wpos := hwpos, samples := hsamples
    cur := hcur, ns := zero_lt_size hns, ws := zero_lt_size hws
    second := fun hdual => (hsecond hdual).imp_right zero_lt_size }
  obtain ⟨t, ht, h⟩ := waveProgress_of_runEvents hs hmpc es hes hle hlast
  have hend : t.active = none ↔ es.count .tick = waveTicks s := by
    obtain ⟨k, hk, -⟩ := hs.kernel
    have hbound : es.count .tick ≤ waveTicks s := hle
    rw [h.active, hk, ← hbound.not_lt_iff_eq]
    split
    next hrunning => exact iff_of_false nofun (not_not_intro hrunning)
    next hover => exact iff_of_true rfl hover
  have hr := h.recorded
  refine ⟨t, ht, hend, hr.samples, hr.calls, h.played.first, h.played.second, fun j c hj hc => ?_, fun a ha => ?_⟩
  · exact hr.words j c (hr.samples ▸ hj) hc
  · exact hr.bytes a (hr.samples ▸ ha)

end Sys2Proof.Machine

/-! SUPPORT. Encoding.lean: the statements of spec/30_encoding.md. What each request format reads (R93), so that a frame
and the instruction it stands for determine each other (R91, R95, R96); every stream is a frame, an unrecognised byte or
incomplete (R98, R103); and one changed byte never passes the receive-check (R91, R106). -/

namespace Sys2Proof

/-! ### The operand readers invert the encoder's formats (R93, R95) -/

theorem readQ0_eq {bs : List Byte} {chk : Byte} (h : readQ0 bs = some chk) : bs = [chk] := by
  unfold readQ0 at h
  split at h <;> cases h
  rfl

theorem readQB_eq {bs : List Byte} {b chk : Byte} (h : readQB bs = some (b, chk)) : bs = [b, chk] := by
  unfold readQB at h
  split at h <;> cases h
  rfl

theorem readQBB_eq {bs : List Byte} {b1 b2 chk : Byte} (h : readQBB bs = some (b1, b2, chk)) : bs = [b1, b2, chk] := by
  unfold readQBB at h
  split at h <;> cases h
  rfl

@[simp] theorem wordBytes_u16 (lo hi : Byte) : wordBytes (u16 lo hi) = [lo, hi] := by simp [wordBytes]

@[simp] theorem decBytes_decOf (x lo hi : Byte) : decBytes (decOf x (u16 lo hi)) = [x, lo, hi] := by
  obtain ⟨hx, hw, -⟩ := fields_decOf x (u16 lo hi)
  rw [decBytes, hx, hw, wordBytes_u16]

theorem readQW_eq {bs : List Byte} {w : Word} {chk : Byte} (h : readQW bs = some (w, chk)) :
    bs = wordBytes w ++ [chk] := by
  unfold readQW at h
  split at h <;> cases h
  simp

theorem readQBW_eq {bs : List Byte} {b : Byte} {w : Word} {chk : Byte} (h : readQBW bs = some (b, w, chk)) :
    bs = b :: wordBytes w ++ [chk] := by
  unfold readQBW at h
  split at h <;> cases h
  simp

theorem readQD_eq {bs : List Byte} {d : Dec} {chk : Byte} (h : readQD bs = some (d, chk)) :
    bs = decBytes d ++ [chk] := by
  unfold readQD at h
  split at h <;> cases h
  simp

theorem readQS_eq {bs : List Byte} {nch ndig : Byte} {ns : Word} {chk : Byte}
    (h : readQS bs = some (nch, ndig, ns, chk)) : bs = nch :: ndig :: wordBytes ns ++ [chk] := by
  unfold readQS at h
  split at h <;> cases h
  simp

theorem readQT_eq {bs : List Byte} {level : Word} {edge seconds chk : Byte}
    (h : readQT bs = some (level, edge, seconds, chk)) : bs = wordBytes level ++ [edge, seconds] ++ [chk] := by
  unfold readQT at h
  split at h <;> cases h
  simp

/-- An even run of bytes is the data of the words it holds. -/
theorem dataBytes_wordsOf {n : Nat} {bs : List Byte} (h : bs.length = 2 * n) :
    dataBytes (wordsOf bs) = bs ∧ (wordsOf bs).length = n := by
  induction n generalizing bs with
  | zero =>
    obtain rfl := List.length_eq_zero_iff.mp h
    exact ⟨rfl, rfl⟩
  | succ n ih =>
    match bs with
    | lo :: hi :: bs =>
      obtain ⟨hbytes, hlength⟩ := ih (bs := bs) (by simp only [List.length_cons] at h; omega)
      simp [wordsOf, dataBytes, hbytes, hlength]
    | [_] => simp at h; omega

theorem readQV_eq {bs : List Byte} {data : List Word} {chk : Byte} (h : readQV bs = some (data, chk)) :
    bs = wordBytes (BitVec.ofNat 16 data.length) ++ dataBytes data ++ [chk] := by
  unfold readQV at h
  split at h
  next lo hi r =>
    dsimp only at h
    split at h
    next last hdrop =>
      cases h
      have hlength : (r.take (2 * (u16 lo hi).toNat)).length = 2 * (u16 lo hi).toNat := by
        have hone := congrArg List.length hdrop
        simp only [List.length_drop, List.length_singleton] at hone
        rw [List.length_take]
        omega
      obtain ⟨hbytes, hwords⟩ := dataBytes_wordsOf hlength
      rw [hwords, hbytes, BitVec.ofNat_toNat, BitVec.setWidth_eq, wordBytes_u16, ← hdrop, List.append_assoc,
        List.take_append_drop]
      rfl
    · cases h
  · cases h

/-- What a command's reader accepts is exactly the parameter bytes and the checksum byte of the instruction read. -/
theorem readOperands_eq {bs : List Byte} {cmd : Cmd} {i : Instr} (h : readOperands bs cmd = some i) :
    i.cmd = cmd ∧ bs = i.params ++ [i.chk] := by
  cases cmd with
  | fwstr | magicq | caps | pins | asyncrd | softrst =>
    obtain ⟨operands, hread, rfl⟩ := Option.map_eq_some_iff.mp h
    exact ⟨rfl, readQ0_eq hread⟩
  | anard | diord =>
    obtain ⟨operands, hread, rfl⟩ := Option.map_eq_some_iff.mp h
    exact ⟨rfl, readQB_eq hread⟩
  | diomode | diowr =>
    obtain ⟨operands, hread, rfl⟩ := Option.map_eq_some_iff.mp h
    exact ⟨rfl, readQBB_eq hread⟩
  | steprsp | wresp | dwresp | wplay | dwplay | setnavg =>
    obtain ⟨operands, hread, rfl⟩ := Option.map_eq_some_iff.mp h
    exact ⟨rfl, readQW_eq hread⟩
  | anawr | swresp =>
    obtain ⟨operands, hread, rfl⟩ := Option.map_eq_some_iff.mp h
    exact ⟨rfl, readQBW_eq hread⟩
  | setper =>
    obtain ⟨operands, hread, rfl⟩ := Option.map_eq_some_iff.mp h
    exact ⟨rfl, readQD_eq hread⟩
  | setsto =>
    obtain ⟨operands, hread, rfl⟩ := Option.map_eq_some_iff.mp h
    exact ⟨rfl, readQS_eq hread⟩
  | trigrd =>
    obtain ⟨operands, hread, rfl⟩ := Option.map_eq_some_iff.mp h
    exact ⟨rfl, readQT_eq hread⟩
  | loadp | loads =>
    obtain ⟨operands, hread, rfl⟩ := Option.map_eq_some_iff.mp h
    exact ⟨rfl, readQV_eq hread⟩

/-- A well-formed instruction is read back from its parameter bytes and checksum byte. -/
theorem readOperands_encoded : ∀ i : Instr, Laws.ReadBack.Statement i
  | .fwstr chk => Laws.ReadBack.fwstr chk
  | .magicq chk => Laws.ReadBack.magicq chk
  | .caps chk => Laws.ReadBack.caps chk
  | .pins chk => Laws.ReadBack.pins chk
  | .anard channel chk => Laws.ReadBack.anard channel chk
  | .anawr channel value chk => Laws.ReadBack.anawr channel value chk
  | .setper period chk => Laws.ReadBack.setper period chk
  | .setsto nch ndig ns chk => Laws.ReadBack.setsto nch ndig ns chk
  | .asyncrd chk => Laws.ReadBack.asyncrd chk
  | .trigrd level edge seconds chk => Laws.ReadBack.trigrd level edge seconds chk
  | .steprsp value chk => Laws.ReadBack.steprsp value chk
  | .loadp data chk => Laws.ReadBack.loadp data chk
  | .loads data chk => Laws.ReadBack.loads data chk
  | .wresp count chk => Laws.ReadBack.wresp count chk
  | .dwresp count chk => Laws.ReadBack.dwresp count chk
  | .swresp channel count chk => Laws.ReadBack.swresp channel count chk
  | .wplay count chk => Laws.ReadBack.wplay count chk
  | .dwplay count chk => Laws.ReadBack.dwplay count chk
  | .diomode line mode chk => Laws.ReadBack.diomode line mode chk
  | .diowr line value chk => Laws.ReadBack.diowr line value chk
  | .diord line chk => Laws.ReadBack.diord line chk
  | .setnavg count chk => Laws.ReadBack.setnavg count chk
  | .softrst chk => Laws.ReadBack.softrst chk

/-! ### The length of a frame (R103) -/

section FrameLen

variable {k : Codes} {c : Byte} {cmd : Cmd}

theorem frameLen_of_unrecognised (h : k.find c = none) (r : List Byte) : frameLen k (c :: r) = some 1 := by
  simp only [frameLen, h]

theorem frameLen_of_fixed (h : k.find c = some cmd) (hf : cmd.format ≠ .qV) (r : List Byte) :
    frameLen k (c :: r) = some cmd.format.length := by
  simp only [frameLen, h]

theorem frameLen_of_load (h : k.find c = some cmd) (hf : cmd.format = .qV) (lo hi : Byte) (r : List Byte) :
    frameLen k (c :: lo :: hi :: r) = some (4 + 2 * (u16 lo hi).toNat) := by
  simp only [frameLen, h, hf]

/-- The frame of a load asks for its size field to arrive first. -/
theorem size_of_frameLen_load {r : List Byte} {n : Nat} (h : k.find c = some cmd) (hf : cmd.format = .qV)
    (hlen : frameLen k (c :: r) = some n) : ∃ lo hi r', r = lo :: hi :: r' ∧ n = 4 + 2 * (u16 lo hi).toNat := by
  match r with
  | lo :: hi :: r' =>
    rw [frameLen_of_load h hf] at hlen
    exact ⟨lo, hi, r', rfl, (Option.some.inj hlen).symm⟩
  | [] | [_] => simp only [frameLen, h, hf] at hlen; cases hlen

end FrameLen

/-- The bytes of an instruction ask for exactly the frame they are, whatever follows (R103). -/
theorem frameLen_encode {k : Codes} {i : Instr} (h : k.Distinct) (hwf : i.wf = true) (rest : List Byte) :
    frameLen k (encode k i ++ rest) = some (encode k i).length := by
  have hfind := Codes.find_of h i.cmd
  cases i with
  | loadp data chk | loads data chk =>
    have hsize : (BitVec.ofNat 16 data.length).toNat = data.length := by
      have hbound : data.length ≤ 65535 := of_decide_eq_true hwf
      exact Nat.mod_eq_of_lt (by omega)
    refine (frameLen_of_load hfind rfl _ _ _).trans ?_
    simp [encode, Instr.body, Instr.params, wordBytes, hsize]
    omega
  | fwstr | magicq | caps | pins | anard | anawr | setper | setsto | asyncrd | trigrd | steprsp | wresp | dwresp
  | swresp | wplay | dwplay | diomode | diowr | diord | setnavg | softrst => exact frameLen_of_fixed hfind nofun _

/-! ### A frame of the right length is read, whatever its bytes (R100, R103) -/

theorem readOperands_of_fixed_length {bs : List Byte} {cmd : Cmd} (hf : cmd.format ≠ .qV)
    (h : bs.length + 1 = cmd.format.length) : ∃ i, readOperands bs cmd = some i := by
  cases cmd with
  | fwstr | magicq | caps | pins | asyncrd | softrst =>
    match bs, h with
    | [_], _ => exact ⟨_, rfl⟩
  | anard | diord =>
    match bs, h with
    | [_, _], _ => exact ⟨_, rfl⟩
  | steprsp | wresp | dwresp | wplay | dwplay | setnavg | diomode | diowr =>
    match bs, h with
    | [_, _, _], _ => exact ⟨_, rfl⟩
  | anawr | swresp | setper =>
    match bs, h with
    | [_, _, _, _], _ => exact ⟨_, rfl⟩
  | setsto | trigrd =>
    match bs, h with
    | [_, _, _, _, _], _ => exact ⟨_, rfl⟩
  | loadp | loads => exact absurd rfl hf

theorem readQV_of_length {lo hi : Byte} {r : List Byte} (h : r.length = 2 * (u16 lo hi).toNat + 1) :
    ∃ operands, readQV (lo :: hi :: r) = some operands := by
  obtain ⟨chk, hchk⟩ := List.length_eq_one_iff.mp
    (show (r.drop (2 * (u16 lo hi).toNat)).length = 1 by rw [List.length_drop]; omega)
  exact ⟨_, by simp only [readQV, hchk]; rfl⟩

theorem readOperands_of_load_length {lo hi : Byte} {r : List Byte} {cmd : Cmd} (hf : cmd.format = .qV)
    (h : r.length = 2 * (u16 lo hi).toNat + 1) : ∃ i, readOperands (lo :: hi :: r) cmd = some i := by
  obtain ⟨operands, hread⟩ := readQV_of_length h
  cases cmd with
  | loadp | loads => exact ⟨_, by rw [readOperands, hread]; rfl⟩
  | fwstr | magicq | caps | pins | anard | anawr | setper | setsto | asyncrd | trigrd | steprsp | wresp | dwresp
  | swresp | wplay | dwplay | diomode | diowr | diord | setnavg | softrst => cases hf

/-- Once the bytes that `FrameLen` asks for have arrived, they are read as an instruction. -/
theorem readOperands_of_frameLen {k : Codes} {c : Byte} {r : List Byte} {cmd : Cmd} {n : Nat}
    (hcmd : k.find c = some cmd) (hlen : frameLen k (c :: r) = some (n + 1)) (hn : n ≤ r.length) :
    ∃ i, readOperands (r.take n) cmd = some i := by
  by_cases hf : cmd.format = .qV
  · obtain ⟨lo, hi, r', rfl, hsize⟩ := size_of_frameLen_load hcmd hf hlen
    obtain ⟨m, rfl⟩ : ∃ m, n = m + 2 := ⟨n - 2, by omega⟩
    refine readOperands_of_load_length hf ?_
    simp only [List.length_cons] at hn
    rw [List.length_take]
    omega
  · refine readOperands_of_fixed_length hf ?_
    rw [frameLen_of_fixed hcmd hf] at hlen
    rw [List.length_take_of_le hn, Option.some.inj hlen]

/-! ### The three readings of a stream (R98, R103, R335) -/

/-- The stream holds fewer bytes than `FrameLen` asks for (R103). -/
def TooShort (k : Codes) (rx : List Byte) : Prop :=
  frameLen k rx = none ∨ ∃ n, frameLen k rx = some n ∧ rx.length < n

/-- The stream begins with the frame `c :: bs` of `i`, as long as `FrameLen` asks for (R103). -/
structure FrameAt (k : Codes) (c : Byte) (bs rest : List Byte) (i : Instr) : Prop where
  length : frameLen k (c :: bs ++ rest) = some (bs.length + 1)
  find : k.find c = some i.cmd
  read : readOperands bs i.cmd = some i

theorem FrameAt.encode_eq {k : Codes} {c : Byte} {bs rest : List Byte} {i : Instr} (h : FrameAt k c bs rest i) :
    encode k i = c :: bs := by
  obtain ⟨-, hbytes⟩ := readOperands_eq h.read
  rw [encode, Instr.body, Codes.of_find h.find, List.cons_append, ← hbytes]

theorem frameAt_encode {k : Codes} {i : Instr} (h : k.Distinct) (hwf : i.wf = true) (rest : List Byte) :
    FrameAt k (k.of i.cmd) (i.params ++ [i.chk]) rest i where
  length := frameLen_encode h hwf rest
  find := Codes.find_of h i.cmd
  read := readOperands_encoded i hwf

theorem decode_of_tooShort {k : Codes} {rx : List Byte} (h : TooShort k rx) : decode k rx = .incomplete := by
  obtain hnone | ⟨n, hsome, hshort⟩ := h
  · rw [decode, hnone]
  · simp only [decode, hsome, if_pos hshort]

theorem decode_of_unrecognised {k : Codes} {c : Byte} (h : k.find c = none) (rest : List Byte) :
    decode k (c :: rest) = .unrecognised c := by
  simp [decode, frameLen_of_unrecognised h, h]

theorem decode_of_frameAt {k : Codes} {c : Byte} {bs rest : List Byte} {i : Instr} (h : FrameAt k c bs rest i) :
    decode k (c :: bs ++ rest) = .instr i (bs.length + 1) := by
  have henough : ¬ (c :: bs ++ rest).length < bs.length + 1 := by simp
  have htake : (c :: bs ++ rest).take (bs.length + 1) = c :: bs := by simp
  simp only [decode, h.length, if_neg henough, htake, h.find, h.read]

/-- The decoder is total: a stream is too short, begins with an unrecognised byte, or begins with a frame. -/
theorem stream_cases (k : Codes) (rx : List Byte) :
    TooShort k rx ∨ (∃ c rest, rx = c :: rest ∧ k.find c = none) ∨
      ∃ c bs rest i, rx = c :: bs ++ rest ∧ FrameAt k c bs rest i := by
  cases hlen : frameLen k rx with
  | none => exact .inl (.inl hlen)
  | some n =>
    by_cases hshort : rx.length < n
    · exact .inl (.inr ⟨n, hlen, hshort⟩)
    · match rx with
      | [] => cases hlen
      | c :: r =>
        cases hcmd : k.find c with
        | none => exact .inr (.inl ⟨c, r, rfl, hcmd⟩)
        | some cmd =>
          have htwo := Machine.two_le_frameLen hcmd hlen
          obtain ⟨m, rfl⟩ : ∃ m, n = m + 1 := ⟨n - 1, by omega⟩
          have hm : m ≤ r.length := by simp only [List.length_cons] at hshort; omega
          obtain ⟨i, hread⟩ := readOperands_of_frameLen hcmd hlen hm
          obtain ⟨rfl, -⟩ := readOperands_eq hread
          refine .inr (.inr ⟨c, r.take m, r.drop m, i, by simp, ?_, hcmd, hread⟩)
          simpa [List.length_take_of_le hm] using hlen

/-- An accepted stream begins with a frame of the instruction read, of the length read. -/
theorem frameAt_of_decode {k : Codes} {rx : List Byte} {i : Instr} {n : Nat} (h : decode k rx = .instr i n) :
    ∃ c bs rest, rx = c :: bs ++ rest ∧ n = bs.length + 1 ∧ FrameAt k c bs rest i := by
  obtain hshort | ⟨c, rest, rfl, hnone⟩ | ⟨c, bs, rest, j, rfl, hframe⟩ := stream_cases k rx
  · rw [decode_of_tooShort hshort] at h
    cases h
  · rw [decode_of_unrecognised hnone] at h
    cases h
  · rw [decode_of_frameAt hframe] at h
    cases h
    exact ⟨c, bs, rest, rfl, rfl, hframe⟩

/-- An accepted stream is the encoding of the instruction read, followed by what is left. -/
theorem eq_encode_append_of_decode {k : Codes} {rx : List Byte} {i : Instr} {n : Nat} (h : decode k rx = .instr i n) :
    n = (encode k i).length ∧ rx = encode k i ++ rx.drop n := by
  obtain ⟨c, bs, rest, rfl, rfl, hframe⟩ := frameAt_of_decode h
  rw [hframe.encode_eq]
  exact ⟨rfl, by simp⟩

/-- Settles O12: the encoding is a frame of its instruction. -/
theorem decodeOfEncode : Obligations.DecodeOfEncode := by
  intro k i rest h hwf
  have hframe := frameAt_encode h hwf rest
  rw [hframe.encode_eq]
  exact decode_of_frameAt hframe

/-- Settles O13: an accepted frame is the encoding of the instruction read, and what is read is well formed. -/
theorem encodeOfDecode : Obligations.EncodeOfDecode := by
  intro k rx i n h
  obtain ⟨rfl, hrx⟩ := eq_encode_append_of_decode h
  exact ⟨Machine.decode_wf h, (Machine.decode_instr_length h).2, by rw [hrx, List.take_left]⟩

/-- Settles O14: of the three readings of a stream, only the too short one is incomplete. -/
theorem incompleteMeansTooShort : Obligations.IncompleteMeansTooShort := by
  refine fun k rx => ⟨fun h => ?_, decode_of_tooShort⟩
  obtain hshort | ⟨c, rest, rfl, hnone⟩ | ⟨c, bs, rest, i, rfl, hframe⟩ := stream_cases k rx
  · exact hshort
  · rw [decode_of_unrecognised hnone] at h
    cases h
  · rw [decode_of_frameAt hframe] at h
    cases h

/-- Settles O16: seven closed frames, each decoded by evaluation. -/
theorem tableFramesDecode : Obligations.TableFramesDecode :=
  ⟨by decide, by decide, by decide, by decide, by decide, by decide, by decide⟩

end Sys2Proof

namespace Sys2Proof.Machine

/-! ### The answer to an unrecognised byte (R98, R313) -/

theorem commandStep_of_unrecognised {s : State} {b : Byte} {rest : List Byte} (hrx : s.link.rx = b :: rest)
    (h : s.cfg.codes.find b = none) : commandStep s = .next (raiseNack (prologue s)) := by
  rw [commandStep, hrx, decode_of_unrecognised h]

theorem prologue_eq {s : State} {b : Byte} {rest : List Byte} (hrx : s.link.rx = b :: rest) :
    prologue s = dispatched { s.link with rx := rest, crcRx := b, crcTx := 0 } s := by
  simp [prologue, getByte, hrx, dispatched]

/-- Settles O15: the byte finds no command, so only the dispatcher's prologue and the refusal run. -/
theorem unrecognisedByteAnswersNack : Obligations.UnrecognisedByteAnswersNack := by
  intro s b rest hmpc hrx hnone
  calc eventStep .main s = commandStep s := mainStep_of_fetch hmpc
    _ = .next (raiseNack (prologue s)) := commandStep_of_unrecognised hrx (Codes.find_none.mpr hnone)
    _ = .next (nackReply (dispatched { s.link with rx := rest, crcRx := b, crcTx := 0 } s)) := by
      rw [prologue_eq hrx, raiseNack, raise_eq rfl]
      rfl
    _ = _ := by simp [nackReply, reply, dispatched, hmpc]

/-! ### A failed receive-check (R106, R127, R176, R311) -/

theorem raiseChecksumError_eq {s : State} (h : s.link.crcTx = 0) : raiseChecksumError s = checksumErrorReply s :=
  raise_eq h s.cfg.ecrc

/-- Every command but the loads makes its receive-check before anything else (R132). -/
theorem exec_of_rejects {i : Instr} {s : State} (h : Rejects i.chk s) (hp : i.cmd ≠ .loadp) (hs : i.cmd ≠ .loads) :
    exec i s = .next (checksumErrorReply s) := by
  obtain ⟨hcheck, hcrc⟩ := h
  rw [← raiseChecksumError_eq hcrc]
  cases i with
  | loadp => exact absurd rfl hp
  | loads => exact absurd rfl hs
  | fwstr | magicq | caps | pins | anard | anawr | setper | setsto | asyncrd | trigrd | steprsp | wresp | dwresp
  | swresp | wplay | dwplay | diomode | diowr | diord | setnavg | softrst =>
    dsimp only [exec]
    exact rxCheck_fail hcheck _

/-- `mem` is the buffer with the words of `data` stored from index `start` on, every other byte as before (R65). -/
def Stored (start : Nat) (data : List Word) (s : State) (mem : Memory) : Prop :=
  (∀ n v, data[n]? = some v → wordAt { s with mem := mem } (start + n) = v) ∧
    ∀ a, (a < 2 * start ∨ 2 * (start + data.length) ≤ a) → byteAt { s with mem := mem } a = byteAt s a

theorem memWriteAll_stored {start : Nat} {data : List Word} {s : State} (h : start + data.length ≤ s.cfg.bsize.toNat) :
    ∃ mem, memWriteAll start data s = .ok { s with mem := mem } ∧ Stored start data s mem := by
  obtain ⟨t, ht⟩ := memWriteAll_total h
  obtain ⟨heq, hwords, hbytes, -⟩ := memWriteAll_ok ht
  obtain ⟨mem, rfl⟩ : ∃ mem, t = { s with mem := mem } := ⟨t.mem, heq⟩
  refine ⟨mem, ht, fun n v hv => ?_, hbytes⟩
  obtain ⟨hn, rfl⟩ := List.getElem?_eq_some_iff.mp hv
  exact hwords n hn

section Loads

variable {data : List Word} {chk : Byte} {s : State}

theorem execLoadp_of_rejects_fits (h : Rejects chk s) (hfits : data.length ≤ s.cfg.bsize.toNat) :
    ∃ mem, exec (.loadp data chk) s = .next { checksumErrorReply s with mem := mem, conf := { s.conf with ws := 0 } } ∧
      Stored 0 data s mem := by
  obtain ⟨hcheck, hcrc⟩ := h
  obtain ⟨mem, hwrite, hstored⟩ := memWriteAll_stored (start := 0) (by rwa [Nat.zero_add])
  refine ⟨mem, ?_, hstored⟩
  simp only [exec, execLoadp, primaryFits, hfits, decide_true, if_true, hwrite, if_neg hcheck]
  rw [raiseChecksumError_eq (by exact hcrc)]
  rfl

theorem execLoadp_of_rejects_oversize (h : Rejects chk s) (hover : ¬ data.length ≤ s.cfg.bsize.toNat) :
    exec (.loadp data chk) s = .next (checksumErrorReply s) := by
  obtain ⟨hcheck, hcrc⟩ := h
  rw [← raiseChecksumError_eq hcrc]
  simp only [exec, execLoadp, primaryFits, hover, decide_false, Bool.false_eq_true, if_false, rxCheck_fail hcheck]

theorem execLoads_of_rejects_fits (h : Rejects chk s) (hfits : data.length + s.conf.ws.toNat ≤ s.cfg.bsize.toNat) :
    ∃ mem, exec (.loads data chk) s = .next { checksumErrorReply s with mem := mem, conf := { s.conf with ws2 := 0 } } ∧
      Stored s.conf.ws.toNat data s mem := by
  obtain ⟨hcheck, hcrc⟩ := h
  obtain ⟨mem, hwrite, hstored⟩ := memWriteAll_stored (start := s.conf.ws.toNat) (by rwa [Nat.add_comm])
  refine ⟨mem, ?_, hstored⟩
  simp only [exec, execLoads, secondaryFits, hfits, decide_true, if_true, hwrite, if_neg hcheck]
  rw [raiseChecksumError_eq (by exact hcrc)]
  rfl

theorem execLoads_of_rejects_oversize (h : Rejects chk s)
    (hover : ¬ data.length + s.conf.ws.toNat ≤ s.cfg.bsize.toNat) :
    exec (.loads data chk) s = .next (checksumErrorReply s) := by
  obtain ⟨hcheck, hcrc⟩ := h
  rw [← raiseChecksumError_eq hcrc]
  simp only [exec, execLoads, secondaryFits, hover, decide_false, Bool.false_eq_true, if_false, rxCheck_fail hcheck]

end Loads

/-- What a failed receive-check leaves of the configuration and the buffer: a load of an acceptable size has stored its
words and clears its own span, everything else keeps both (R171, R173, R176). -/
def RejectedLeaves (s t : State) : Instr → Prop
  | .loadp data _ =>
    if data.length ≤ s.cfg.bsize.toNat then
      t.conf = { s.conf with ws := 0 } ∧ (∀ n v, data[n]? = some v → wordAt t n = v) ∧
        ∀ a, 2 * data.length ≤ a → byteAt t a = byteAt s a
    else t.conf = s.conf ∧ t.mem = s.mem
  | .loads data _ =>
    if data.length + s.conf.ws.toNat ≤ s.cfg.bsize.toNat then
      t.conf = { s.conf with ws2 := 0 } ∧ (∀ n v, data[n]? = some v → wordAt t (s.conf.ws.toNat + n) = v) ∧
        ∀ a, (a < 2 * s.conf.ws.toNat ∨ 2 * (s.conf.ws.toNat + data.length) ≤ a) → byteAt t a = byteAt s a
    else t.conf = s.conf ∧ t.mem = s.mem
  | _ => t.conf = s.conf ∧ t.mem = s.mem

/-- Every command whose receive-check fails replies `RE` and changes at most configuration and buffer. -/
theorem exec_checksumErrorReply {i : Instr} {s : State} (h : Rejects i.chk s) :
    ∃ conf mem, exec i s = .next { checksumErrorReply s with conf := conf, mem := mem } ∧
      RejectedLeaves s { checksumErrorReply s with conf := conf, mem := mem } i := by
  cases i with
  | loadp data chk =>
    by_cases hfits : data.length ≤ s.cfg.bsize.toNat
    · obtain ⟨mem, hexec, hwords, hbytes⟩ := execLoadp_of_rejects_fits h hfits
      refine ⟨_, mem, hexec, ?_⟩
      simp only [Nat.zero_add] at hwords hbytes
      rw [RejectedLeaves, if_pos hfits]
      exact ⟨rfl, hwords, fun a ha => hbytes a (.inr ha)⟩
    · refine ⟨s.conf, s.mem, execLoadp_of_rejects_oversize h hfits, ?_⟩
      rw [RejectedLeaves, if_neg hfits]
      exact ⟨rfl, rfl⟩
  | loads data chk =>
    by_cases hfits : data.length + s.conf.ws.toNat ≤ s.cfg.bsize.toNat
    · obtain ⟨mem, hexec, hwords, hbytes⟩ := execLoads_of_rejects_fits h hfits
      refine ⟨_, mem, hexec, ?_⟩
      rw [RejectedLeaves, if_pos hfits]
      exact ⟨rfl, hwords, hbytes⟩
    · refine ⟨s.conf, s.mem, execLoads_of_rejects_oversize h hfits, ?_⟩
      rw [RejectedLeaves, if_neg hfits]
      exact ⟨rfl, rfl⟩
  | fwstr | magicq | caps | pins | anard | anawr | setper | setsto | asyncrd | trigrd | steprsp | wresp | dwresp
  | swresp | wplay | dwplay | diomode | diowr | diord | setnavg | softrst =>
    exact ⟨s.conf, s.mem, exec_of_rejects h nofun nofun, rfl, rfl⟩

/-! ### One changed byte (R91, R106) -/

/-- A frame is valid exactly when all its bytes XOR to 0 (R91). -/
theorem xorBytes_encode_eq_zero_iff {k : Codes} {i : Instr} : xorBytes (encode k i) = 0 ↔ i.chk = checksum k i := by
  have hxor : xorBytes (encode k i) = checksum k i ^^^ i.chk := by simp [encode, checksum]
  rw [hxor, eq_comm (a := i.chk)]
  exact BitVec.xor_eq_zero_iff

/-- Changing one byte changes the XOR. -/
theorem xorBytes_set_ne {bs : List Byte} {p : Nat} {b : Byte} (hp : p < bs.length) (hb : bs[p]? ≠ some b) :
    xorBytes (bs.set p b) ≠ xorBytes bs := by
  induction bs generalizing p with
  | nil => simp at hp
  | cons c r ih =>
    cases p with
    | zero => simpa [BitVec.xor_left_inj, eq_comm] using hb
    | succ p =>
      have hr := ih (p := p) (by simpa using hp) (by simpa using hb)
      simpa [BitVec.xor_right_inj] using hr

/-- The main agent runs an accepted frame with the XOR of its body as receive checksum (R127, R130). -/
theorem mainStep_of_decode {s : State} {i : Instr} {n : Nat} (hmpc : s.mpc = .fetch)
    (h : decode s.cfg.codes s.link.rx = .instr i n) :
    eventStep .main s = exec i (dispatched
      { s.link with rx := s.link.rx.drop n, crcRx := checksum s.cfg.codes i, crcTx := 0 } s) := by
  obtain ⟨htwo, hlen⟩ := decode_instr_length h
  obtain ⟨hn, hrx⟩ := eq_encode_append_of_decode h
  have hbody : s.link.rx.take (n - 1) = i.body s.cfg.codes := by
    have hbound : n - 1 = (i.body s.cfg.codes).length := by simp [hn, encode]
    rw [hrx, encode, List.append_assoc, hbound, List.take_left]
  calc eventStep .main s = commandStep s := mainStep_of_fetch hmpc
    _ = exec i (acceptFrame n s) := commandStep_of_instr h
    _ = _ := by rw [acceptFrame_eq htwo hlen, hbody]; rfl

/-- Settles O17: the changed frame's bytes do not XOR to 0, so the receive-check of whatever they read as fails. -/
theorem corruptedByteIsDetected : Obligations.CorruptedByteIsDetected := by
  intro s i j rest p b hmpc hvalid hp hb hrx hdecode
  obtain ⟨hlen, hframe⟩ := eq_encode_append_of_decode hdecode
  have hrest : s.link.rx.drop (encode s.cfg.codes i).length = rest := by
    rw [hrx]
    exact List.drop_left' (by simp)
  have hset : (encode s.cfg.codes i).set p b = encode s.cfg.codes j := by
    rw [hrest, hrx] at hframe
    exact List.append_cancel_right hframe
  have hinvalid : j.chk ≠ checksum s.cfg.codes j := by
    have hxor := xorBytes_set_ne hp hb
    rw [hset, xorBytes_encode_eq_zero_iff.mpr hvalid] at hxor
    exact fun h => hxor (xorBytes_encode_eq_zero_iff.mpr h)
  have hstep := mainStep_of_decode hmpc hdecode
  rw [hrest] at hstep
  obtain ⟨conf, mem, hexec, hleaves⟩ := exec_checksumErrorReply
    (s := dispatched { s.link with rx := rest, crcRx := checksum s.cfg.codes j, crcTx := 0 } s) ⟨hinvalid, rfl⟩
  refine ⟨_, hstep.trans hexec, rfl, rfl, ?_, rfl, rfl, rfl, rfl, rfl, rfl, rfl, rfl, rfl, rfl, rfl, hleaves⟩
  simp [checksumErrorReply, reply, dispatched]

end Sys2Proof.Machine

/-! SUPPORT. Codec.lean: the statements of spec/40_codec_dispatch.md. Words go out low byte first (R123), decimal
arithmetic is exact (R135) and decides what SETPER stores (R150), a failed receive-check changes the link alone (R127,
R311), and the dispatcher discards a halt edge that came while the block was idle (R130, R322). -/

namespace Sys2Proof.Machine

/-! ### Words and decimals (R121 to R124, R135) -/

/-- Settles O21: the statement writes out `decValue`, whose order and quotients the model's integers compute. -/
theorem decimalArithmeticIsExact : Obligations.DecimalArithmeticIsExact :=
  ⟨fun _ _ => exactLess_iff, fun s _ h => exactQuotient_eq_floor s h⟩

/-- Settles O20: `PutU16` sends `wordBytes`, of which `u16` is the inverse. -/
theorem wordsAreLittleEndian : Obligations.WordsAreLittleEndian := by
  intro w s
  refine ⟨?_, u16_lo_hi w, u16_toNat⟩
  rw [putU16_eq_putBytes, putBytes_eq]
  simp [wordBytes, loByte, hiByte, BitVec.xor_assoc]

/-! ### The sample period (R24, R150) -/

/-- With exact arithmetic a period is legal when its value lies in the closed interval of the profile (R135). -/
theorem periodLegal_iff_decValue {cfg : Config} {p : Dec} (h : cfg.arith = .exact) :
    periodLegal cfg p = true ↔ decValue cfg.pmin ≤ decValue p ∧ decValue p ≤ decValue cfg.pmax := by
  rw [periodLegal_iff_of_exact h, exactLess_eq_false_iff, exactLess_eq_false_iff]

theorem raiseNack_eq {s : State} (h : s.link.crcTx = 0) : raiseNack s = nackReply s :=
  raise_eq h s.cfg.nack

/-- SETPER after a passed receive-check (R150). -/
theorem execSetper_of_accepts {s : State} {chk : Byte} {p : Dec} (h : Accepts chk s) :
    exec (.setper p chk) s =
      if periodLegal s.cfg p = true then .next { ackReply s with conf := { s.conf with per := p } }
      else .next (nackReply s) := by
  obtain ⟨hcheck, hcrc⟩ := h
  rw [exec, execSetper, rxCheck_pass hcheck, replyAck_eq (by exact hcrc), raiseNack_eq hcrc]
  rfl

/-- Settles O29: the interval of the statement is `periodLegal`, on which SETPER branches. -/
theorem setPeriodStoresLegalPair : Obligations.SetPeriodStoresLegalPair := by
  intro s chk p haccepts hexact
  have hlegal := periodLegal_iff_decValue (p := p) hexact
  refine ⟨fun hlow hhigh => ?_, fun hout => ?_⟩ <;> rw [execSetper_of_accepts haccepts]
  · exact if_pos (hlegal.mpr ⟨hlow, hhigh⟩)
  · refine if_neg fun hp => ?_
    obtain ⟨hlow, hhigh⟩ := hlegal.mp hp
    exact hout.elim hlow.not_gt hhigh.not_gt

/-! ### The receive-check (R127, R311) -/

/-- Settles O37: all these commands make their receive-check first. -/
theorem checksumErrorChangesNothing : Obligations.ChecksumErrorChangesNothing :=
  fun _ _ hrejects hp hs => exec_of_rejects hrejects hp hs

/-! ### The dispatcher (R130, R322) -/

theorem getByte_haltStep (s : State) : getByte (haltStep s) = haltStep (getByte s) := by
  unfold getByte
  rw [haltStep_link]
  split <;> rfl

/-- The prologue clears `HALT`, whether or not a halt edge had set it. -/
theorem prologue_haltStep (s : State) : prologue (haltStep s) = prologue s := by
  unfold prologue
  exact congrArg (fun t : State => { t with flags := { t.flags with halt := false } })
    (getByte_haltStep { s with link := { s.link with crcRx := 0, crcTx := 0 } })

theorem acceptFrame_haltStep (n : Nat) (s : State) : acceptFrame n (haltStep s) = acceptFrame n s := by
  rw [acceptFrame, prologue_haltStep, acceptFrame]

theorem commandStep_haltStep {s : State} (h : decode s.cfg.codes s.link.rx ≠ .incomplete) :
    commandStep (haltStep s) = commandStep s := by
  unfold commandStep
  rw [haltStep_cfg, haltStep_link]
  split
  case h_1 i n _ => rw [acceptFrame_haltStep]
  case h_2 => rw [prologue_haltStep]
  case h_3 hincomplete => exact absurd hincomplete h

/-- Settles O54: at FETCH the main agent's step is a command step, and every enabled one begins with the prologue. -/
theorem idleHaltIsDiscarded : Obligations.IdleHaltIsDiscarded := by
  intro s hmpc h
  calc eventStep .main (haltStep s) = commandStep (haltStep s) := mainStep_of_fetch hmpc
    _ = commandStep s := commandStep_haltStep h
    _ = eventStep .main s := (mainStep_of_fetch hmpc).symm

end Sys2Proof.Machine

/-! SUPPORT. ConfigCmds.lean: the statements of spec/41_config_commands.md. SETNAVG and SETSTO after a passed
receive-check (R151, R152), when a storage request is feasible (R175), and how an acknowledge, distinct from both
refusals by R6, tells that a request was stored (R177). -/

namespace Sys2Proof.Machine

/-! ### The averaging count (R25, R152) -/

/-- SETNAVG after a passed receive-check (R152). -/
theorem execSetnavg_of_accepts {s : State} {chk : Byte} {n : Word} (h : Accepts chk s) :
    exec (.setnavg n chk) s =
      .next { ackReply s with conf := { s.conf with navg := if n = 0 then 1 else n } } := by
  obtain ⟨hcheck, hcrc⟩ := h
  rw [exec, execSetnavg, rxCheck_pass hcheck, replyAck_eq (by exact hcrc)]
  rfl

/-- Settles O31: the two clauses are the two branches of the stored value. -/
theorem setAveragingClampsZero : Obligations.SetAveragingClampsZero := by
  intro s chk n haccepts
  refine ⟨fun hn => ?_, ?_⟩ <;> rw [execSetnavg_of_accepts haccepts]
  · rw [if_neg hn]
  · rw [if_pos rfl]

/-! ### The storage request (R21 to R23, R151, R175) -/

theorem storageLegal_iff {nch ndig : Byte} {ns : Word} :
    storageLegal nch ndig ns = true ↔ 1 ≤ nch.toNat ∧ nch.toNat ≤ 4 ∧ ndig = 0 ∧ ns ≠ 0 := by
  simp [storageLegal, and_assoc]

/-- Under I1 of R170 the reservation check compares with the free capacity of R27. -/
theorem reserveTransient_iff_le_tcap {nch ns : Nat} {s : State} (h : tbase s ≤ s.cfg.bsize.toNat) :
    reserveTransient nch ns s = true ↔ nch * ns ≤ tcap s := by
  rw [reserveTransient, decide_eq_true_eq, tcap]
  rw [tbase] at h ⊢
  omega

/-- The state after SETSTO has stored a request and acknowledged it (R151). -/
def storageSet (nch : Byte) (ns : Word) (s : State) : State :=
  { ackReply s with conf := { s.conf with nch := BitVec.setWidth 3 nch, ndig := 0, ns := ns } }

/-- SETSTO after a passed receive-check (R151). -/
theorem execSetsto_of_accepts {s : State} {chk nch ndig : Byte} {ns : Word} (h : Accepts chk s) :
    exec (.setsto nch ndig ns chk) s =
      if storageLegal nch ndig ns = true ∧ reserveTransient nch.toNat ns.toNat s = true then
        .next (storageSet nch ns s)
      else .next (nackReply s) := by
  obtain ⟨hcheck, hcrc⟩ := h
  rw [exec, execSetsto, rxCheck_pass hcheck, replyAck_eq (by exact hcrc), raiseNack_eq hcrc]
  simp only [Bool.and_eq_true]
  rfl

/-- Settles O30: the two clauses are the two branches of SETSTO, whose capacity test is `TCAP`'s under I1. -/
theorem setStorageStoresFeasibleRequest : Obligations.SetStorageStoresFeasibleRequest := by
  intro s chk nch ndig ns haccepts hspans
  have hfits := reserveTransient_iff_le_tcap (nch := nch.toNat) (ns := ns.toNat) hspans
  refine ⟨fun hlow hhigh hndig hns hcap => ?_, fun hout => ?_⟩ <;> rw [execSetsto_of_accepts haccepts]
  · rw [if_pos ⟨storageLegal_iff.mpr ⟨hlow, hhigh, hndig, hns⟩, hfits.mpr hcap⟩, BitVec.ofNat_toNat]
    rfl
  · refine if_neg fun ⟨hlegal, hreserve⟩ => ?_
    obtain ⟨hlow, hhigh, hndig, hns⟩ := storageLegal_iff.mp hlegal
    have hcap := hfits.mp hreserve
    obtain rfl | hmany | hdigital | hempty | hlarge := hout
    · exact absurd hlow (by decide)
    · omega
    · exact hdigital hndig
    · exact hns hempty
    · omega

/-! ### Tables and reservation together (R170, R177) -/

/-- The acknowledge byte is neither refusal code (R6). -/
theorem ack_ne_refusals {cfg : Config} (h : cfg.Legal) : cfg.nack ≠ cfg.ack ∧ cfg.ecrc ≠ cfg.ack := by
  have hnodup := h.sentinels
  simp only [List.nodup_cons, List.mem_cons, not_or] at hnodup
  obtain ⟨⟨hnack, hecrc, -⟩, -⟩ := hnodup
  exact ⟨Ne.symm hnack, Ne.symm hecrc⟩

theorem reply_singleton_tx (b : Byte) (s : State) : (reply [b] s).link.tx = s.link.tx ++ [b, b] := by
  simp [reply]

/-- A reply of one payload byte tells that byte by the bytes sent (R92). -/
theorem reply_singleton_tx_inj {b c : Byte} {s : State} (h : (reply [b] s).link.tx = s.link.tx ++ [c, c]) :
    b = c := by
  rw [reply_singleton_tx] at h
  exact List.head_eq_of_cons_eq (List.append_cancel_left h)

/-- A SETSTO that is answered with the acknowledge has stored a request whose reservation fits. -/
theorem storageSet_of_ack {s t : State} {chk nch ndig : Byte} {ns : Word} (hlegal : s.cfg.Legal)
    (hcrc : s.link.crcTx = 0) (h : exec (.setsto nch ndig ns chk) s = .next t)
    (hack : t.link.tx = s.link.tx ++ [s.cfg.ack, s.cfg.ack]) :
    reserveTransient nch.toNat ns.toNat s = true ∧ t = storageSet nch ns s := by
  obtain ⟨hnack, hecrc⟩ := ack_ne_refusals hlegal
  by_cases hcheck : chk = s.link.crcRx
  · rw [execSetsto_of_accepts ⟨hcheck, hcrc⟩] at h
    split at h
    next hstores => exact ⟨hstores.2, (Host.Outcome.next.inj h).symm⟩
    next =>
      obtain rfl := Host.Outcome.next.inj h
      exact absurd (reply_singleton_tx_inj hack) hnack
  · rw [exec_of_rejects (i := .setsto nch ndig ns chk) ⟨hcheck, hcrc⟩ nofun nofun] at h
    obtain rfl := Host.Outcome.next.inj h
    exact absurd (reply_singleton_tx_inj hack) hecrc

/-- A stored reservation takes no more words than the request asked for. -/
theorem storageSet_fits {s : State} {nch : Byte} {ns : Word} (h : reserveTransient nch.toNat ns.toNat s = true) :
    tbase (storageSet nch ns s) + (storageSet nch ns s).conf.nch.toNat * (storageSet nch ns s).conf.ns.toNat ≤
      (storageSet nch ns s).cfg.bsize.toNat := by
  show tbase s + (BitVec.setWidth 3 nch).toNat * ns.toNat ≤ s.cfg.bsize.toNat
  have hrequest : nch.toNat * ns.toNat + tbase s ≤ s.cfg.bsize.toNat := of_decide_eq_true h
  have hnch : (BitVec.setWidth 3 nch).toNat ≤ nch.toNat := by
    rw [BitVec.toNat_setWidth]
    exact Nat.mod_le _ _
  have hwords := Nat.mul_le_mul_right ns.toNat hnch
  omega

/-- Settles O43: an acknowledged SETSTO passed the reservation check, and an attached capture kernel has the reservation
that the invariant of the next state keeps. -/
theorem reservationsFit : Obligations.ReservationsFit := by
  intro s t hs hmpc hstep
  refine ⟨fun nch ndig ns chk n hdecode hack => ?_, fun k hk hcaptures => ?_⟩
  · rw [mainStep_of_decode hmpc hdecode] at hstep
    obtain ⟨hreserve, rfl⟩ := storageSet_of_ack (s := dispatched _ s) hs.legal rfl hstep hack
    exact storageSet_fits hreserve
  · obtain ⟨-, -, -, -, -, hfits⟩ := (eventStep_inv hs hstep).samplingReady hk hcaptures
    rwa [runWords, Nat.add_comm] at hfits

end Sys2Proof.Machine

/-! SUPPORT. AllocatorCmds.lean: the statements of spec/42_allocator_commands.md. The words of a load are stored before
its receive-check (R171, R173, R176), so a passed and a failed check leave the same buffer (`Stored`) and differ in the
span and the reply. -/

namespace Sys2Proof.Machine

section Loads

variable {data : List Word} {chk : Byte} {s : State} {mem : Memory}

/-- A table stored from index 0 has no bytes below it (R171). -/
theorem stored_zero_iff : Stored 0 data s mem ↔
    (∀ n v, data[n]? = some v → wordAt { s with mem := mem } n = v) ∧
      ∀ a, 2 * data.length ≤ a → byteAt { s with mem := mem } a = byteAt s a := by
  simp [Stored]

/-- The spans of an accepted primary load, with R172's condition as the one under which both tables fit. -/
theorem commitPrimary_eq (size : Nat) (s : State) : commitPrimary size s =
    { s with conf := { s.conf with
        ws := BitVec.ofNat 16 size
        ws2 := if size + s.conf.ws2.toNat ≤ s.cfg.bsize.toNat then s.conf.ws2 else 0 } } := by
  simp only [commitPrimary, gt_iff_lt, ← not_le, ite_not]

/-! ### A passed receive-check (R171 to R173) -/

/-- LOADP of an acceptable size after a passed receive-check (R171, R172). -/
theorem execLoadp_of_accepts_fits (h : Accepts chk s) (hfits : data.length ≤ s.cfg.bsize.toNat) :
    ∃ mem, exec (.loadp data chk) s = .next { ackReply s with
        mem := mem
        conf := { s.conf with
          ws := BitVec.ofNat 16 data.length
          ws2 := if data.length + s.conf.ws2.toNat ≤ s.cfg.bsize.toNat then s.conf.ws2 else 0 } } ∧
      Stored 0 data s mem := by
  obtain ⟨hcheck, hcrc⟩ := h
  obtain ⟨mem, hwrite, hstored⟩ := memWriteAll_stored (start := 0) (by rwa [Nat.zero_add])
  refine ⟨mem, ?_, hstored⟩
  simp only [exec, execLoadp, primaryFits, hfits, decide_true, if_true, hwrite, if_pos hcheck]
  rw [commitPrimary_eq, replyAck_eq (by exact hcrc)]
  rfl

/-- LOADS of an acceptable size after a passed receive-check (R173). -/
theorem execLoads_of_accepts_fits (h : Accepts chk s) (hfits : data.length + s.conf.ws.toNat ≤ s.cfg.bsize.toNat) :
    ∃ mem, exec (.loads data chk) s = .next { ackReply s with
        mem := mem
        conf := { s.conf with ws2 := BitVec.ofNat 16 data.length } } ∧
      Stored s.conf.ws.toNat data s mem := by
  obtain ⟨hcheck, hcrc⟩ := h
  obtain ⟨mem, hwrite, hstored⟩ := memWriteAll_stored (start := s.conf.ws.toNat) (by rwa [Nat.add_comm])
  refine ⟨mem, ?_, hstored⟩
  simp only [exec, execLoads, secondaryFits, hfits, decide_true, if_true, hwrite, if_pos hcheck]
  rw [replyAck_eq (by exact hcrc)]
  rfl

/-- A LOADP that is too large is refused after a passed receive-check, its words discarded (R171). -/
theorem execLoadp_of_accepts_oversize (h : Accepts chk s) (hover : ¬ data.length ≤ s.cfg.bsize.toNat) :
    exec (.loadp data chk) s = .next { nackReply s with conf := { s.conf with ws := 0 } } := by
  obtain ⟨hcheck, hcrc⟩ := h
  simp only [exec, execLoadp, primaryFits, hover, decide_false, Bool.false_eq_true, if_false, rxCheck_pass hcheck]
  rw [raiseNack_eq (by exact hcrc)]
  rfl

/-- A LOADS that is too large is refused after a passed receive-check, its words discarded (R173). -/
theorem execLoads_of_accepts_oversize (h : Accepts chk s)
    (hover : ¬ data.length + s.conf.ws.toNat ≤ s.cfg.bsize.toNat) :
    exec (.loads data chk) s = .next { nackReply s with conf := { s.conf with ws2 := 0 } } := by
  obtain ⟨hcheck, hcrc⟩ := h
  simp only [exec, execLoads, secondaryFits, hover, decide_false, Bool.false_eq_true, if_false, rxCheck_pass hcheck]
  rw [raiseNack_eq (by exact hcrc)]
  rfl

end Loads

/-- Settles O33: the stores of LOADP begin at index 0, and R172's condition is the one `commitPrimary` branches on. -/
theorem loadPrimaryStoresTable : Obligations.LoadPrimaryStoresTable := by
  intro s chk data haccepts hfits
  obtain ⟨mem, hexec, hstored⟩ := execLoadp_of_accepts_fits haccepts hfits
  exact ⟨mem, hexec, stored_zero_iff.mp hstored⟩

/-- Settles O34: the stores of LOADS begin at index `WS`. -/
theorem loadSecondaryStoresTable : Obligations.LoadSecondaryStoresTable :=
  fun _ _ _ haccepts hfits => execLoads_of_accepts_fits haccepts hfits

/-- Settles O36: the words of an acceptable size are in the buffer before the receive-check fails. -/
theorem corruptedLoadsClearTheirSpan : Obligations.CorruptedLoadsClearTheirSpan := by
  intro s chk data hrejects
  refine ⟨fun hfits => ?_, fun hfits => execLoads_of_rejects_fits hrejects hfits⟩
  obtain ⟨mem, hexec, hstored⟩ := execLoadp_of_rejects_fits hrejects hfits
  exact ⟨mem, hexec, stored_zero_iff.mp hstored⟩

/-- Settles O35: a load that is too large comes to its receive-check with the buffer as it was, and only a passed check
clears the span. -/
theorem oversizeLoadsAreRefused : Obligations.OversizeLoadsAreRefused := by
  refine fun s chk data => ⟨fun hover => ?_, fun hover => ?_⟩
  · exact ⟨fun haccepts => execLoadp_of_accepts_oversize haccepts hover.not_ge,
      fun hrejects => execLoadp_of_rejects_oversize hrejects hover.not_ge⟩
  · exact ⟨fun haccepts => execLoads_of_accepts_oversize haccepts hover.not_ge,
      fun hrejects => execLoads_of_rejects_oversize hrejects hover.not_ge⟩

end Sys2Proof.Machine

/-! SUPPORT. Scheduler.lean: the statements of spec/43_scheduler_run.md. How each run command starts its run or refuses
(R194, R312), what one tick of each capture kernel does to the whole state (R195, R221, R228 to R236, R261), how the
overrun flags tell a missed poll (R193, R196, R200), and from these the reply to a whole capture run (R199, R222,
R234). -/

namespace Sys2Proof.Machine

/-! ### The status (R198) -/

/-- Settles O24: the four clauses are the branches of `status`, in its order. -/
theorem statusPriority : Obligations.StatusPriority := by
  intro s
  refine ⟨fun hhalt => ?_, fun hhalt hto => ?_, fun hhalt hto hovr => ?_, fun hhalt hto hovr => ?_⟩ <;>
    simp [status, *]

/-! ### The prologue of a tick (R193) and the polls (R196, R197) -/

section Agents

variable {s : State} {k : Kernel} {x : RunCmd}

theorem tickStep_of_halted (hk : s.active = some k) (hhalt : s.flags.halt = true) :
    tickStep s = .next (detach (overrunHandshake s)) := by
  simp only [tickStep, hk, overrunHandshake_flags, hhalt, if_true]

theorem tickStep_of_not_halted (hk : s.active = some k) (hhalt : s.flags.halt = false) :
    tickStep s = settle (kernelBody k (overrunHandshake s)) := by
  simp only [tickStep, hk, overrunHandshake_flags, hhalt, Bool.false_eq_true, if_false]

/-- A kernel's body that answers a state ends the tick there. -/
theorem tickStep_of_kernelBody {u : State} (hk : s.active = some k) (hhalt : s.flags.halt = false)
    (hbody : kernelBody k (overrunHandshake s) = .ok u) : tickStep s = .next u := by
  rw [tickStep_of_not_halted hk hhalt, hbody, settle_ok]

theorem mainStep_of_in_progress (hmpc : s.mpc = .poll x) (hdone : s.flags.done = false) :
    eventStep .main s = .next (acknowledgeTick s) := by
  rw [eventStep, mainStep_of_poll hmpc, pollStep, if_neg (by rw [hdone]; exact nofun)]

/-- The poll that sees `DONE` sends the reply of the run and ends it. -/
theorem mainStep_of_done (hmpc : s.mpc = .poll x) (hdone : s.flags.done = true) (hcrc : s.link.crcTx = 0)
    (hns : s.conf.ns ≠ 0) (hfits : playsOnly (kernelOf x) = false → runWords s + tbase s ≤ s.cfg.bsize.toNat) :
    eventStep .main s = .next (runEnded (reply (runPayload x s) s).link s) := by
  rw [eventStep, mainStep_of_poll hmpc, pollStep, if_pos hdone, runReply_reply hcrc hns hfits]
  rfl

end Agents

/-- Settles O44: the two clauses are the two ways a tick goes on after the handshake. -/
theorem tickPrologue : Obligations.TickPrologue :=
  fun _ _ hk => ⟨fun hhalt => tickStep_of_halted hk hhalt, fun hhalt => tickStep_of_not_halted hk hhalt⟩

/-- Settles O51: an acknowledged state is still in progress, so the same lemma serves the repetition. -/
theorem pollAcknowledgesTick : Obligations.PollAcknowledgesTick :=
  fun s _ hmpc hdone =>
    ⟨mainStep_of_in_progress hmpc hdone, mainStep_of_in_progress (s := acknowledgeTick s) hmpc hdone⟩

/-- Every reply to a run begins with its status (R197, R199). -/
theorem runPayload_eq_status_cons (x : RunCmd) (s : State) : ∃ rest, runPayload x s = status s :: rest := by
  cases x <;> exact ⟨_, rfl⟩

/-- A run after a halt edge and the tick that follows it: no kernel work is done (R193, R201). -/
def haltEnded (s : State) : State := detach (overrunHandshake (haltStep s))

theorem runEvents_halt_tick {k : Kernel} {s : State} (hk : s.active = some k) :
    runEvents [.halt, .tick] s = .next (haltEnded s) := by
  simp only [runEvents, eventStep, tickStep_of_halted (s := haltStep s) hk rfl, haltEnded]

/-- Settles O53: the tick after the halt edge detaches, and the poll after it finds `HALT` before any other flag. -/
theorem haltEndsRunAtNextTick : Obligations.HaltEndsRunAtNextTick := by
  intro s x hs hmpc hk
  have hpoll := mainStep_of_done (s := haltEnded s) hmpc rfl (hs.sendIdle x hmpc) hs.ns (hs.fits x hmpc)
  obtain ⟨rest, hpayload⟩ := runPayload_eq_status_cons x (haltEnded s)
  rw [(statusPriority (haltEnded s)).1 rfl] at hpayload
  refine ⟨haltEnded s, _, rest ++ [xorBytes (runPayload x (haltEnded s))], runEvents_halt_tick hk, rfl, rfl, rfl, rfl,
    rfl, rfl, rfl, rfl, hpoll, rfl, ?_⟩
  show s.link.tx ++ runPayload x (haltEnded s) ++ [xorBytes (runPayload x (haltEnded s))] = _
  rw [List.append_assoc, hpayload]
  rfl

/-! ### The start of a run (R194), and its refusal (R312) -/

section Start

variable {s u : State} {k : Kernel} {x : RunCmd} {nch : BitVec 3} {init : State → Except Fault State}

theorem startCapture_of_fits (hfits : nch.toNat * s.conf.ns.toNat + tbase s ≤ s.cfg.bsize.toNat)
    (hinit : init (runRegisters (some nch) s) = .ok u) : startCapture k x nch init s = .next (launch k x u) := by
  rw [startCapture, reserveTransient, if_pos (decide_eq_true hfits), hinit]

theorem startCapture_of_overflow (hcrc : s.link.crcTx = 0)
    (hover : s.cfg.bsize.toNat < nch.toNat * s.conf.ns.toNat + tbase s) :
    startCapture k x nch init s = .next (nackReply s) := by
  rw [startCapture, reserveTransient, if_neg (by simpa using hover), raiseNack_eq hcrc]

end Start

section Commands

variable {s : State} {chk : Byte}

theorem execAsyncrd_of_accepts (h : Accepts chk s) :
    exec (.asyncrd chk) s = startCapture .kAsync .asyncrd s.conf.nch .ok s := by
  rw [exec, execAsyncrd, rxCheck_pass h.1]

theorem execSteprsp_of_accepts (h : Accepts chk s) (v : Word) :
    exec (.steprsp v chk) s = startCapture .kStep .steprsp s.conf.nch (initStep v) s := by
  rw [exec, execSteprsp, rxCheck_pass h.1]

theorem execTrigrd_of_edge (h : Accepts chk s) {edge : Byte} {e : Edge} (he : edgeOfCode s.cfg edge = some e)
    (level : Word) (seconds : Byte) :
    exec (.trigrd level edge seconds chk) s =
      startCapture .kTrig .trigrd s.conf.nch (initTrigger level e seconds) s := by
  simp only [exec, execTrigrd, rxCheck_pass h.1, he]

theorem execTrigrd_of_no_edge (h : Accepts chk s) {edge : Byte} (he : edgeOfCode s.cfg edge = none) (level : Word)
    (seconds : Byte) : exec (.trigrd level edge seconds chk) s = .next (nackReply s) := by
  simp only [exec, execTrigrd, rxCheck_pass h.1, he, raiseNack_eq h.2]

/-- The two edge codes of a profile, the rising one first (R225). -/
theorem edgeOfCode_eq_some {cfg : Config} {b : Byte} {e : Edge}
    (h : b = cfg.edgeRising ∧ e = .rising ∨ b ≠ cfg.edgeRising ∧ b = cfg.edgeFalling ∧ e = .falling) :
    edgeOfCode cfg b = some e := by
  obtain ⟨hb, rfl⟩ | ⟨hne, hb, rfl⟩ := h
  · exact if_pos hb
  · rw [edgeOfCode, if_neg hne, if_pos hb]

theorem edgeOfCode_eq_none {cfg : Config} {b : Byte} (hr : b ≠ cfg.edgeRising) (hf : b ≠ cfg.edgeFalling) :
    edgeOfCode cfg b = none := by
  rw [edgeOfCode, if_neg hr, if_neg hf]

theorem initTrigger_eq {level : Word} {e : Edge} {seconds : Byte}
    (h : timeoutTicks s.cfg seconds s.conf.per < 2 ^ 32) :
    initTrigger level e seconds s = .ok { s with
      trig := { level := level, edge := e, tocnt := BitVec.ofNat 32 (timeoutTicks s.cfg seconds s.conf.per) }
      run := { s.run with
        pre := BitVec.ofNat 16 (s.conf.ns.toNat / 2)
        post := BitVec.ofNat 16 (s.conf.ns.toNat - s.conf.ns.toNat / 2 - 1)
        trigIdx := 0
        phase := .prefill } } := by
  rw [initTrigger, narrow_total h]

theorem execWresp_of_accepts (h : Accepts chk s) (n : Word) :
    exec (.wresp n chk) s =
      if tablesLoaded false s = true then startCapture .kWresp .wresp s.conf.nch (initResponse false n) s
      else .next (nackReply s) := by
  rw [exec, execWresp, rxCheck_pass h.1, raiseNack_eq h.2]

theorem execDwresp_of_accepts (h : Accepts chk s) (n : Word) :
    exec (.dwresp n chk) s =
      if tablesLoaded true s = true then startCapture .kDwresp .dwresp s.conf.nch (initResponse true n) s
      else .next (nackReply s) := by
  rw [exec, execDwresp, rxCheck_pass h.1, raiseNack_eq h.2]

theorem execSwresp_of_accepts (h : Accepts chk s) (channel : Byte) (n : Word) :
    exec (.swresp channel n chk) s =
      if (selectable channel && tablesLoaded false s) = true then
        startCapture .kSwresp .swresp 1 (initSelected channel n) s
      else .next (nackReply s) := by
  rw [exec, execSwresp, rxCheck_pass h.1, raiseNack_eq h.2]

theorem execWplay_of_accepts (h : Accepts chk s) (n : Word) :
    exec (.wplay n chk) s =
      if tablesLoaded false s = true then startPlay .kWplay .wplay (initPlay false n) s
      else .next (nackReply s) := by
  rw [exec, execWplay, rxCheck_pass h.1, raiseNack_eq h.2]

theorem execDwplay_of_accepts (h : Accepts chk s) (n : Word) :
    exec (.dwplay n chk) s =
      if tablesLoaded true s = true then startPlay .kDwplay .dwplay (initPlay true n) s
      else .next (nackReply s) := by
  rw [exec, execDwplay, rxCheck_pass h.1, raiseNack_eq h.2]

theorem tablesLoaded_false_iff : tablesLoaded false s = true ↔ s.conf.ws ≠ 0 := by
  simp [tablesLoaded]

theorem tablesLoaded_true_iff : tablesLoaded true s = true ↔ s.conf.ws ≠ 0 ∧ s.conf.ws2 ≠ 0 := by
  simp [tablesLoaded]

theorem selectable_iff {channel : Byte} : selectable channel = true ↔ 1 ≤ channel.toNat ∧ channel.toNat ≤ 4 := by
  simp [selectable]

end Commands

/-- Settles O38: the reservation fits, so each command's registers are written over the common ones. -/
theorem captureCommandsStartRuns : Obligations.CaptureCommandsStartRuns := by
  intro s chk h hfits
  refine ⟨?_, fun v => ?_, fun level edge seconds e he hticks => ?_⟩
  · rw [execAsyncrd_of_accepts h]
    exact startCapture_of_fits hfits rfl
  · rw [execSteprsp_of_accepts h]
    exact startCapture_of_fits (init := initStep v) hfits rfl
  · rw [execTrigrd_of_edge h (edgeOfCode_eq_some he)]
    exact startCapture_of_fits hfits (initTrigger_eq hticks)

/-- Settles O39: the tables are loaded and the reservation fits, SWRESP's being one channel's. -/
theorem waveResponseCommandsStartRuns : Obligations.WaveResponseCommandsStartRuns := by
  intro s chk count h hws
  refine ⟨fun hfits => ⟨?_, fun hws2 => ?_⟩, fun channel hlow hhigh hfits => ?_⟩
  · rw [execWresp_of_accepts h, if_pos (tablesLoaded_false_iff.mpr hws)]
    exact startCapture_of_fits (init := initResponse false count) hfits rfl
  · rw [execDwresp_of_accepts h, if_pos (tablesLoaded_true_iff.mpr ⟨hws, hws2⟩)]
    exact startCapture_of_fits (init := initResponse true count) hfits rfl
  · have hselects : (selectable channel && tablesLoaded false s) = true := by
      rw [selectable_iff.mpr ⟨hlow, hhigh⟩, tablesLoaded_false_iff.mpr hws, Bool.and_self]
    rw [execSwresp_of_accepts h, if_pos hselects]
    exact startCapture_of_fits (init := initSelected channel count) (by simpa using hfits) rfl

/-- Settles O40: a play makes no reservation check. -/
theorem wavePlayCommandsStartRuns : Obligations.WavePlayCommandsStartRuns := by
  intro s chk count h hws
  refine ⟨?_, fun hws2 => ?_⟩
  · rw [execWplay_of_accepts h, if_pos (tablesLoaded_false_iff.mpr hws)]
    rfl
  · rw [execDwplay_of_accepts h, if_pos (tablesLoaded_true_iff.mpr ⟨hws, hws2⟩)]
    rfl

/-- Settles O41, cause by cause: whichever test of a command fails, it answers `RN`. -/
theorem runCommandsRefuse : Obligations.RunCommandsRefuse := by
  intro s chk h
  refine ⟨fun hover => ?_, fun level edge seconds hr hf => ?_, fun channel n hcause => ?_, fun hws => ?_,
    fun hws2 => ?_⟩
  · refine ⟨?_, fun v => ?_, fun level edge seconds => ?_, fun n => ?_, fun n => ?_⟩
    · rw [execAsyncrd_of_accepts h, startCapture_of_overflow h.2 hover]
    · rw [execSteprsp_of_accepts h, startCapture_of_overflow h.2 hover]
    · cases he : edgeOfCode s.cfg edge with
      | none => exact execTrigrd_of_no_edge h he level seconds
      | some e => rw [execTrigrd_of_edge h he, startCapture_of_overflow h.2 hover]
    · rw [execWresp_of_accepts h, startCapture_of_overflow h.2 hover, ite_self]
    · rw [execDwresp_of_accepts h, startCapture_of_overflow h.2 hover, ite_self]
  · exact execTrigrd_of_no_edge h (edgeOfCode_eq_none hr hf) level seconds
  · rw [execSwresp_of_accepts h]
    obtain hzero | hlarge | hover := hcause
    · have hsel : selectable channel = false := by rw [hzero]; decide
      rw [hsel, Bool.false_and, if_neg (by decide)]
    · have hsel : selectable channel = false := by
        rw [← Bool.not_eq_true, selectable_iff]
        omega
      rw [hsel, Bool.false_and, if_neg (by decide)]
    · rw [startCapture_of_overflow h.2 (by simpa using hover), ite_self]
  · have hprimary : ¬ tablesLoaded false s = true := by simp [tablesLoaded_false_iff, hws]
    have hboth : ¬ tablesLoaded true s = true := by simp [tablesLoaded_true_iff, hws]
    refine ⟨fun n => ?_, fun n => ?_, fun channel n => ?_, fun n => ?_, fun n => ?_⟩
    · rw [execWresp_of_accepts h, if_neg hprimary]
    · rw [execDwresp_of_accepts h, if_neg hboth]
    · rw [execSwresp_of_accepts h, if_neg (by simp [hprimary])]
    · rw [execWplay_of_accepts h, if_neg hprimary]
    · rw [execDwplay_of_accepts h, if_neg hboth]
  · have hboth : ¬ tablesLoaded true s = true := by simp [tablesLoaded_true_iff, hws2]
    refine ⟨fun n => ?_, fun n => ?_⟩
    · rw [execDwresp_of_accepts h, if_neg hboth]
    · rw [execDwplay_of_accepts h, if_neg hboth]

/-! ### A tick of a linear capture (R221, R236) -/

/-- Sampling in a run that is ready, with what the first of the channels read (R195). -/
theorem storeInputs_first_of_ready {s : State} (hs : SamplingReady s) (hc : CaptureReady s) :
    ∃ rest mem, storeInputs s = .ok (nextSample s 0 (channelAt s 0) :: rest, sampled s mem) ∧ Recorded s mem := by
  have hfits := storeIndex_fits hs hc
  obtain ⟨hpos, hnchrun, hlow, hhigh, hnadc, -⟩ := hs
  obtain ⟨vs, mem, hstore, hrec, -, hwords⟩ := storeInputs_eq (inputChannels_exist hnchrun hlow hhigh hnadc) hfits
  have hfirst := hwords 0 _ (inputChannels_getElem? s hpos)
  cases vs with
  | nil => cases hfirst
  | cons v rest =>
    obtain rfl := Option.some.inj hfirst
    exact ⟨rest, mem, hstore, hrec⟩

/-- After one more frame of a run that is ready the cursor has moved on without truncation. -/
theorem sampled_captureStored {s : State} (hs : SamplingReady s) (hc : CaptureReady s) (mem : Memory) :
    CaptureStored (sampled s mem) := by
  have hfits := storeIndex_fits hs hc
  have hsize := s.cfg.bsize.isLt
  have hcursor : s.run.cur.toNat ≤ storeIndex s := Nat.le_add_left _ _
  obtain ⟨hlt, hcur⟩ := hc
  refine ⟨hlt, ?_⟩
  show (BitVec.ofNat 16 (s.run.cur.toNat + s.run.nchrun.toNat)).toNat = (s.run.samples.toNat + 1) * s.run.nchrun.toNat
  rw [BitVec.toNat_ofNat, Nat.mod_eq_of_lt (by omega), hcur, Nat.succ_mul]

/-- The circular cursor wraps with the last frame of `NS` (R42). -/
theorem wrapCursor_sampled {s : State} (hs : SamplingReady s) (hc : CaptureReady s) (mem : Memory) :
    wrapCursor (sampled s mem) = { sampled s mem with run := { (sampled s mem).run with
      cur := if s.run.samples.toNat + 1 = s.conf.ns.toNat then 0 else (sampled s mem).run.cur } } := by
  have hfull : (sampled s mem).run.cur.toNat = runWords (sampled s mem) ↔
      s.run.samples.toNat + 1 = s.conf.ns.toNat := cur_eq_runWords_iff hs.1 (sampled_captureStored hs hc mem)
  simp only [wrapCursor_eq, hfull]

/-- What counting a sample leaves, with the count written as `NS` where it is reached. -/
theorem counted_eq_ite {s : State} (h : s.run.samples.toNat < s.conf.ns.toNat) :
    counted s = if s.run.samples.toNat + 1 = s.conf.ns.toNat then
        detach { s with run := { s.run with samples := s.conf.ns } }
      else { s with run := { s.run with samples := s.run.samples + 1 } } := by
  unfold counted
  split
  next hlast => rw [(add_one_eq_iff_of_lt h).mpr hlast]
  next => rfl

theorem tickAsync_eq {s : State} (hs : SamplingReady s) (hc : CaptureReady s) :
    ∃ mem, Recorded s mem ∧ tickAsync s = .ok (
      if s.run.samples.toNat + 1 = s.conf.ns.toNat then
        detach { sampled s mem with run := { (sampled s mem).run with samples := s.conf.ns, cur := 0 } }
      else { sampled s mem with run := { (sampled s mem).run with samples := s.run.samples + 1 } }) := by
  obtain ⟨vs, mem, hstore, hrec, -⟩ := storeInputs_of_ready hs hc
  refine ⟨mem, hrec, ?_⟩
  simp only [tickAsync, hstore, wrapCursor_sampled hs hc]
  rw [countSample_eq (by exact hc.1), counted_eq_ite (by exact hc.1)]
  by_cases hlast : s.run.samples.toNat + 1 = s.conf.ns.toNat
  · simp only [hlast, if_true]
    rw [if_pos (by exact hlast)]
    rfl
  · simp only [hlast, if_false]
    rw [if_neg (by exact hlast)]
    rfl

/-- Settles O46: after the handshake the run is as ready as before. -/
theorem asyncTickStoresFrame : Obligations.AsyncTickStoresFrame := by
  intro s hk hhalt hs hc
  obtain ⟨mem, hrec, htick⟩ := tickAsync_eq (s := overrunHandshake s) hs hc
  exact ⟨mem, hrec, tickStep_of_kernelBody hk hhalt htick⟩

/-- The state after the step of a step response, which is applied on one tick only (R236). -/
def stepApplied (s : State) : State :=
  if s.run.samples = s.run.stepIdx then
    { s with dac := s.dac.set 0 s.run.stepVal, io := s.io ++ [.dac 1 s.run.stepVal] }
  else s

theorem stepApplied_eq (s : State) :
    stepApplied s = { s with dac := (stepApplied s).dac, io := (stepApplied s).io } := by
  unfold stepApplied
  split <;> rfl

theorem applyStep_eq {s : State} (h : 1 ≤ s.cfg.ndac.toNat) : applyStep s = .ok (stepApplied s) := by
  unfold applyStep stepApplied
  split
  · exact dacWrite_total _ le_rfl h
  · rfl

theorem tickStepResponse_eq {s : State} (hs : SamplingReady s) (hc : CaptureReady s) (hdac : 1 ≤ s.cfg.ndac.toNat) :
    ∃ mem, Recorded s mem ∧ tickStepResponse s = .ok (
      let u := sampled (stepApplied s) mem
      if s.run.samples.toNat + 1 = s.conf.ns.toNat then detach { u with run := { u.run with samples := s.conf.ns } }
      else { u with run := { u.run with samples := s.run.samples + 1 } }) := by
  have hstep := applyStep_eq hdac
  rw [stepApplied_eq] at hstep ⊢
  obtain ⟨vs, mem, hstore, hrec, -⟩ := storeInputs_of_ready
    (s := { s with dac := (stepApplied s).dac, io := (stepApplied s).io }) hs hc
  refine ⟨mem, hrec, ?_⟩
  simp only [tickStepResponse, hstep, hstore]
  rw [countSample_eq (by exact hc.1), counted_eq_ite (by exact hc.1)]
  rfl

/-- Settles O47: the step writes an output and its event only, so the sampling after it is that of the state before. -/
theorem stepTickAppliesStep : Obligations.StepTickAppliesStep := by
  intro s hk hhalt hs hc hdac
  obtain ⟨mem, hrec, htick⟩ := tickStepResponse_eq (s := overrunHandshake s) hs hc hdac
  exact ⟨mem, hrec, tickStep_of_kernelBody hk hhalt htick⟩

/-! ### A tick of the triggered capture (R228 to R232) -/

/-- A triggered tick before its timeout and its phase: one frame stored, the slot and the timeout counted (R228). -/
def slotRecorded (s : State) (mem : Memory) : State :=
  { sampled s mem with
    trig := { s.trig with tocnt := if s.trig.tocnt = 0 then 0 else s.trig.tocnt - 1 }
    run := { (sampled s mem).run with
      cur := if s.run.samples.toNat + 1 = s.conf.ns.toNat then 0 else (sampled s mem).run.cur
      samples := if s.run.samples.toNat + 1 = s.conf.ns.toNat then 0 else s.run.samples + 1 } }

theorem countSlot_eq {s : State} (h : s.run.samples.toNat < s.conf.ns.toNat) :
    countSlot s = .ok { s with run := { s.run with
      samples := if s.run.samples.toNat + 1 = s.conf.ns.toNat then 0 else s.run.samples + 1 } } := by
  have hns := s.conf.ns.isLt
  by_cases hlast : s.run.samples.toNat + 1 = s.conf.ns.toNat
  · simp [countSlot, hlast, narrow]
  · have hmod : (s.run.samples.toNat + 1) % s.conf.ns.toNat = s.run.samples.toNat + 1 :=
      Nat.mod_eq_of_lt (by omega)
    rw [countSlot, hmod, narrow_total (by omega), ofNat_toNat_add_one, if_neg hlast]

theorem countTimeout_eq_ite (s : State) :
    countTimeout s = { s with trig := { s.trig with tocnt := if s.trig.tocnt = 0 then 0 else s.trig.tocnt - 1 } } := by
  unfold countTimeout
  split
  next hzero => rw [← hzero]
  next => rfl

/-- The body of a triggered tick: after the frame, the timeout wins over the phase (R228). -/
theorem tickTrig_eq {s : State} (hs : SamplingReady s) (hc : CaptureReady s) :
    ∃ mem, Recorded s mem ∧ tickTrig s =
      if s.trig.tocnt = 1 ∧ s.run.phase ≠ .capture then .ok (detach (recordTimeout (slotRecorded s mem)))
      else phaseStep (nextSample s 0 (channelAt s 0)) s.run.samples (slotRecorded s mem) := by
  obtain ⟨rest, mem, hstore, hrec⟩ := storeInputs_first_of_ready hs hc
  refine ⟨mem, hrec, ?_⟩
  simp only [tickTrig, hstore, wrapCursor_sampled hs hc]
  rw [countSlot_eq (by exact hc.1)]
  simp only [countTimeout_eq_ite, timesOut, Bool.and_eq_true, decide_eq_true_eq]
  rfl

section Phases

variable {a slot : Word} {s : State}

/-- Where presamples remain, one fewer is left; with the last one, or where there was none, the phase goes on (R229). -/
theorem phaseStep_prefill (h : s.run.phase = .prefill) :
    phaseStep a slot s = .ok { s with run := { s.run with
      pre := if s.run.pre = 0 then 0 else s.run.pre - 1
      phase := if s.run.pre.toNat ≤ 1 then .armPre else .prefill } } := by
  rw [phaseStep, h]
  by_cases hzero : s.run.pre = 0
  · simp [phasePrefill, hzero]
  · have hpos : s.run.pre.toNat ≠ 0 := fun e => hzero (BitVec.eq_of_toNat_eq e)
    have hlast : s.run.pre - 1 = 0 ↔ s.run.pre.toNat ≤ 1 := by
      rw [← BitVec.toNat_inj, toNat_sub_one hzero]
      show s.run.pre.toNat - 1 = 0 ↔ _
      omega
    simp only [phasePrefill, if_neg hzero, hlast, h]

theorem arms_iff {e : Edge} {level a : Word} :
    arms e level a = true ↔ (e = .rising ∧ a < level) ∨ (e = .falling ∧ level < a) := by
  cases e <;> simp [arms]

theorem phaseStep_armPre (h : s.run.phase = .armPre) :
    phaseStep a slot s = .ok (
      if (s.trig.edge = .rising ∧ a < s.trig.level) ∨ (s.trig.edge = .falling ∧ s.trig.level < a) then
        { s with run := { s.run with phase := .armPost } }
      else s) := by
  rw [phaseStep, h]
  simp only [phaseArmPre, arms_iff]

theorem crosses_iff {e : Edge} {level a : Word} :
    crosses e level a = true ↔ (e = .rising ∧ level < a) ∨ (e = .falling ∧ a < level) := by
  cases e <;> simp [crosses]

theorem phaseStep_armPost (h : s.run.phase = .armPost) :
    phaseStep a slot s = .ok (
      if (s.trig.edge = .rising ∧ s.trig.level < a) ∨ (s.trig.edge = .falling ∧ a < s.trig.level) then
        let w := { s with run := { s.run with trigIdx := slot, phase := .capture } }
        if s.run.post = 0 then detach w else w
      else s) := by
  rw [phaseStep, h]
  simp only [phaseArmPost, crosses_iff]

theorem phaseStep_capture (h : s.run.phase = .capture) (hpost : s.run.post ≠ 0) :
    phaseStep a slot s = .ok (
      let w := { s with run := { s.run with post := s.run.post - 1 } }
      if s.run.post = 1 then detach w else w) := by
  rw [phaseStep, h]
  simp only [phaseCapture, decrement_total hpost, sub_eq_zero]

end Phases

/-- Settles O48, phase by phase. -/
theorem triggeredTickAdvancesPhase : Obligations.TriggeredTickAdvancesPhase := by
  intro s hk hhalt hs ⟨hc, hpost⟩
  have hchannel : channelAt s 0 = 1 := if_neg (by rw [hk]; exact nofun)
  obtain ⟨mem, hrec, htick⟩ := tickTrig_eq (s := overrunHandshake s) hs hc
  change tickTrig (overrunHandshake s) = if s.trig.tocnt = 1 ∧ s.run.phase ≠ .capture then _ else
    phaseStep (nextSample s 0 (channelAt s 0)) s.run.samples _ at htick
  rw [hchannel] at htick
  refine ⟨mem, hrec, tickStep_of_kernelBody hk hhalt (htick.trans ?_)⟩
  by_cases htime : s.trig.tocnt = 1 ∧ s.run.phase ≠ .capture
  · rw [if_pos htime, if_pos htime]
    rfl
  rw [if_neg htime, if_neg htime]
  cases hphase : s.run.phase with
  | prefill => exact phaseStep_prefill hphase
  | armPre => exact phaseStep_armPre hphase
  | armPost => exact phaseStep_armPost hphase
  | capture => exact phaseStep_capture hphase (hpost hphase)

/-! ### A tick of a wave response (R261, R262) -/

/-- Settles O49: playing keeps the run's registers, and only a recording tick goes on to sample and count. -/
theorem waveResponseTickPlaysAndRecords : Obligations.WaveResponseTickPlaysAndRecords := by
  intro s dual hkernel hhalt hs hc hp hprimary hsecondary
  have hw : WaveReady dual (overrunHandshake s) := ⟨hprimary, hsecondary⟩
  obtain ⟨k, hk, hbody⟩ : ∃ k, s.active = some k ∧ kernelBody k = tickWaveResponse dual := by
    obtain hk | ⟨rfl, hk⟩ := hkernel
    · exact ⟨_, hk, by cases dual <;> rfl⟩
    · exact ⟨_, hk, rfl⟩
  have htick : ∀ {u}, tickWaveResponse dual (overrunHandshake s) = .ok u → eventStep .tick s = .next u :=
    fun h => tickStep_of_kernelBody hk hhalt (by rw [hbody, h])
  refine ⟨fun hrep => ?_, fun hrep => ?_⟩
  · rw [htick (tickWaveResponse_of_repeating hp hw hrep)]
    cases dual <;> simp [waveAdvanced, cursorsAdvanced, endsCycle, played, show ¬ s.run.wrep = 0#16 from hrep]
  · obtain ⟨mem, hmem, hrecord⟩ := tickWaveResponse_of_recording (s := overrunHandshake s) hs hc hp hw hrep
    refine ⟨mem, hmem, (htick hrecord).trans ?_⟩
    by_cases hlast : s.run.samples.toNat + 1 = s.conf.ns.toNat
    · rw [counted, if_pos (by rw [played_eq]; exact hlast), if_pos hlast]
      cases dual <;> simp [waveAdvanced, cursorsAdvanced, sampled, played, show s.run.wrep = 0#16 from hrep]
    · rw [counted, if_neg (by rw [played_eq]; exact hlast), if_neg hlast]
      cases dual <;> simp [waveAdvanced, cursorsAdvanced, sampled, played, show s.run.wrep = 0#16 from hrep]

/-! ### Missed polls (R193, R196, R200)

Along a run the two overrun flags tell two facts about the schedule so far: `OVR` that a tick waits for its poll,
`OVRERR` that one came while another waited. -/

/-- The last tick has had no poll since. -/
def PollDue (es : List Event) : Prop := ∃ a m, es = a ++ .tick :: m ∧ .main ∉ m

/-- A list written in two ways, the first with one last element and the second cut at a chosen one. -/
theorem append_singleton_eq_append_cons {α : Type} {es a m : List α} {e x : α} (h : es ++ [e] = a ++ x :: m) :
    (m = [] ∧ e = x ∧ es = a) ∨ ∃ m', m = m' ++ [e] ∧ es = a ++ x :: m' := by
  cases m using List.reverseRecOn with
  | nil =>
    obtain ⟨hes, he⟩ := List.append_inj' h rfl
    exact .inl ⟨rfl, List.singleton_inj.mp he, hes⟩
  | append_singleton m' y =>
    rw [← List.cons_append, ← List.append_assoc] at h
    obtain ⟨hes, he⟩ := List.append_inj' h rfl
    exact .inr ⟨m', by rw [List.singleton_inj.mp he], hes⟩

theorem pollDue_append_tick (es : List Event) : PollDue (es ++ [.tick]) := ⟨es, [], rfl, nofun⟩

theorem not_pollDue_append_main (es : List Event) : ¬ PollDue (es ++ [.main]) := by
  rintro ⟨a, m, h, hm⟩
  obtain ⟨-, he, -⟩ | ⟨m', rfl, -⟩ := append_singleton_eq_append_cons h
  · cases he
  · exact hm (by simp)

/-- Events of the other agents neither tick nor poll. -/
theorem pollDue_append_other {es : List Event} {e : Event} (ht : e ≠ .tick) (hm : e ≠ .main) :
    PollDue (es ++ [e]) ↔ PollDue es := by
  constructor
  · rintro ⟨a, m, h, hmain⟩
    obtain ⟨-, he, -⟩ | ⟨m', rfl, hes⟩ := append_singleton_eq_append_cons h
    · exact absurd he ht
    · exact ⟨a, m', hes, fun hin => hmain (List.mem_append_left _ hin)⟩
  · rintro ⟨a, m, rfl, hmain⟩
    exact ⟨a, m ++ [e], by simp, by simp [hmain, hm.symm]⟩

theorem MissedPoll.append {es : List Event} (h : MissedPoll es) (fs : List Event) : MissedPoll (es ++ fs) := by
  obtain ⟨a, m, b, rfl, hm⟩ := h
  exact ⟨a, m, b ++ fs, by simp, hm⟩

/-- A poll is missed with the last tick exactly where the tick before it still waits. -/
theorem missedPoll_append_tick {es : List Event} : MissedPoll (es ++ [.tick]) ↔ MissedPoll es ∨ PollDue es := by
  constructor
  · rintro ⟨a, m, b, h, hm⟩
    obtain ⟨-, -, hes⟩ | ⟨b', -, hes⟩ := append_singleton_eq_append_cons h
    · exact .inr ⟨a, m, hes, hm⟩
    · exact .inl ⟨a, m, b', hes, hm⟩
  · rintro (h | ⟨a, m, rfl, hm⟩)
    · exact h.append _
    · exact ⟨a, m, [], rfl, hm⟩

theorem missedPoll_append_other {es : List Event} {e : Event} (ht : e ≠ .tick) :
    MissedPoll (es ++ [e]) ↔ MissedPoll es := by
  refine ⟨?_, fun h => h.append _⟩
  rintro ⟨a, m, b, h, hm⟩
  obtain ⟨-, he, -⟩ | ⟨b', -, hes⟩ := append_singleton_eq_append_cons h
  · exact absurd he ht
  · exact ⟨a, m, b', hes, hm⟩

/-- A run of `x` is in progress after the schedule `es`, and its overrun flags tell what `es` says of the polls. -/
structure OverrunTracked (x : RunCmd) (es : List Event) (t : State) : Prop where
  mpc : t.mpc = .poll x
  done : t.flags.done = false
  ovr : t.flags.ovr = true ↔ PollDue es
  ovrErr : t.flags.ovrErr = true ↔ MissedPoll es

/-- A tick, detaching or not, records an overrun where the tick before it still waits (R193). -/
theorem OverrunTracked.ovrErr_of_tick {x : RunCmd} {es : List Event} {t u : State} (h : OverrunTracked x es t)
    {k : Kernel} (hk : t.active = some k) (htick : eventStep .tick t = .next u) :
    u.flags.ovrErr = true ↔ MissedPoll (es ++ [.tick]) := by
  obtain ⟨f, -⟩ := tickStep_frame hk htick
  have hovrErr : u.flags.ovrErr = (t.flags.ovrErr || t.flags.ovr) := f.ovrErr
  rw [hovrErr, Bool.or_eq_true, h.ovrErr, h.ovr, missedPoll_append_tick]

/-- A step of a run that stays in progress keeps the flags in step with the schedule. -/
theorem OverrunTracked.step {x : RunCmd} {es : List Event} {e : Event} {t u : State} (h : OverrunTracked x es t)
    (hk : t.active ≠ none) (he : e ≠ .reset) (hstep : eventStep e t = .next u) (hactive : u.active ≠ none) :
    OverrunTracked x (es ++ [e]) u := by
  cases e with
  | main =>
    rw [mainStep_of_in_progress h.mpc h.done] at hstep
    obtain rfl := Host.Outcome.next.inj hstep
    exact ⟨h.mpc, h.done, iff_of_false nofun (not_pollDue_append_main es),
      h.ovrErr.trans (missedPoll_append_other (e := .main) nofun).symm⟩
  | tick =>
    obtain ⟨k, hk⟩ := Option.ne_none_iff_exists'.mp hk
    obtain ⟨f, -⟩ := tickStep_frame hk hstep
    obtain ⟨-, hdone⟩ | ⟨hended, -⟩ := f.ended
    · exact ⟨f.mpc.trans h.mpc, hdone.trans h.done, iff_of_true f.ovr (pollDue_append_tick es),
        h.ovrErr_of_tick hk hstep⟩
    · exact absurd hended hactive
  | halt | rx =>
    obtain rfl := Host.Outcome.next.inj hstep
    exact ⟨h.mpc, h.done, h.ovr.trans (pollDue_append_other (by exact nofun) (by exact nofun)).symm,
      h.ovrErr.trans (missedPoll_append_other (by exact nofun)).symm⟩
  | reset => exact absurd rfl he

/-- A schedule that ends somewhere ends its last step there. -/
theorem runEvents_append_singleton {es : List Event} {e : Event} {s u : State}
    (h : runEvents (es ++ [e]) s = .next u) : ∃ t, runEvents es s = .next t ∧ eventStep e t = .next u := by
  induction es generalizing s with
  | nil =>
    refine ⟨s, rfl, ?_⟩
    simp only [List.nil_append, runEvents] at h
    split at h
    next hstep =>
      obtain rfl := Host.Outcome.next.inj h
      exact hstep
    · cases h
    · cases h
  | cons d es ih =>
    rw [List.cons_append, runEvents] at h
    split at h
    next hstep =>
      obtain ⟨t, ht, hlast⟩ := ih h
      exact ⟨t, by rw [runEvents, hstep]; exact ht, hlast⟩
    · cases h
    · cases h

/-- A kernel is attached after every part of the schedule. -/
def AttachedThroughout (es : List Event) (s : State) : Prop :=
  ∀ n v, runEvents (es.take n) s = .next v → v.active ≠ none

theorem AttachedThroughout.of_append {es fs : List Event} {s : State} (h : AttachedThroughout (es ++ fs) s) :
    AttachedThroughout es s := fun n v hv => h (min n es.length) v (by
  rw [List.take_append_of_le_length (min_le_right _ _), ← List.take_eq_take_min]
  exact hv)

theorem AttachedThroughout.last {es : List Event} {s t : State} (h : AttachedThroughout es s)
    (ht : runEvents es s = .next t) : t.active ≠ none :=
  h es.length t (by rwa [List.take_length])

theorem overrunTracked_of_runEvents {x : RunCmd} {s : State} (hmpc : s.mpc = .poll x) (hdone : s.flags.done = false)
    (hovr : s.flags.ovr = false) (hovrErr : s.flags.ovrErr = false) (es : List Event) (hreset : .reset ∉ es)
    (hattached : AttachedThroughout es s) {t : State} (h : runEvents es s = .next t) : OverrunTracked x es t := by
  induction es using List.reverseRecOn generalizing t with
  | nil =>
    obtain rfl := Host.Outcome.next.inj h
    exact ⟨hmpc, hdone, iff_of_false (by simp [hovr]) (by simp [PollDue]),
      iff_of_false (by simp [hovrErr]) (by simp [MissedPoll])⟩
  | append_singleton es e ih =>
    obtain ⟨u, hu, hstep⟩ := runEvents_append_singleton h
    rw [List.mem_append, not_or, List.mem_singleton] at hreset
    have hbefore := hattached.of_append
    exact (ih hreset.1 hbefore hu).step (hbefore.last hu) (Ne.symm hreset.2) hstep (hattached.last h)

/-- Settles O55: the flags are in step with the schedule before the last tick, and the last tick reads them. -/
theorem overrunMeansMissedPoll : Obligations.OverrunMeansMissedPoll := by
  intro es s t u x hreset hmpc hdone hovr hovrErr hattached ht htick
  have htracked := overrunTracked_of_runEvents hmpc hdone hovr hovrErr es hreset hattached ht
  obtain ⟨k, hk⟩ := Option.ne_none_iff_exists'.mp (AttachedThroughout.last hattached ht)
  exact htracked.ovrErr_of_tick hk htick

/-! ### The course of a capture run (R42, R67, R195, R199)

After `n` ticks of a run with `NS` slots, slot `j mod NS` holds the frame of tick `j` for the last `NS` ticks `j`. A
linear capture ends before it comes round; a triggered one goes round until its trigger. -/

/-- What a run leaves as it was at its start, in the words the reply and the next tick need. -/
structure RunKept (s t : State) : Prop where
  cfg : t.cfg = s.cfg
  conf : t.conf = s.conf
  link : t.link = s.link
  mpc : t.mpc = s.mpc
  resets : t.resets = s.resets
  halt : t.flags.halt = s.flags.halt
  level : t.trig.level = s.trig.level
  edge : t.trig.edge = s.trig.edge
  nchrun : t.run.nchrun = s.run.nchrun
  selch : t.run.selch = s.run.selch

theorem RunKept.tick {s t u : State} (h : RunKept s t) {k : Kernel} (hk : t.active = some k)
    (htick : eventStep .tick t = .next u) : RunKept s u := by
  obtain ⟨f, -⟩ := tickStep_frame hk htick
  exact ⟨f.cfg.trans h.cfg, f.conf.trans h.conf, f.link.trans h.link, f.mpc.trans h.mpc, f.resets.trans h.resets,
    f.halt.trans h.halt, f.level.trans h.level, f.edge.trans h.edge, f.nchrun.trans h.nchrun, f.selch.trans h.selch⟩

theorem RunKept.tbase_eq {s t : State} (h : RunKept s t) : tbase t = tbase s := by
  rw [tbase, tbase, h.conf]

theorem RunKept.samplingReady {s t : State} (h : RunKept s t) (hs : SamplingReady s) : SamplingReady t := by
  rwa [SamplingReady, runWords, h.tbase_eq, h.cfg, h.conf, h.nchrun, h.selch]

/-- The frames of the last `NS` of `n` ticks lie in their slots, and the environment has answered for `n` ticks. -/
structure FramesRecorded (s : State) (n : Nat) (t : State) : Prop where
  answers : t.env.adc = s.env.adc.drop (n * s.run.nchrun.toNat)
  calls : t.env.calls = s.env.calls + n * s.run.nchrun.toNat
  words : ∀ j c, j < n → n ≤ j + s.conf.ns.toNat → c < s.run.nchrun.toNat →
    wordAt t (slotIndex s (j % s.conf.ns.toNat) c) = nextSample s (j * s.run.nchrun.toNat + c) (c + 1)

/-- The run attached to `k` is in progress after `n` ticks. -/
structure CaptureProgress (k : Kernel) (s : State) (n : Nat) (t : State) : Prop where
  kept : RunKept s t
  frames : FramesRecorded s n t
  samples : t.run.samples.toNat = n % s.conf.ns.toNat
  cur : t.run.cur.toNat = n % s.conf.ns.toNat * s.run.nchrun.toNat
  active : t.active = some k
  done : t.flags.done = false
  toErr : t.flags.toErr = false

theorem PollsAndTicks.of_append {es fs : List Event} (h : PollsAndTicks (es ++ fs)) : PollsAndTicks es :=
  fun e he => h e (List.mem_append_left _ he)

theorem PollsAndTicks.take {es : List Event} (h : PollsAndTicks es) (m : Nat) : PollsAndTicks (es.take m) :=
  fun e he => h e (List.mem_of_mem_take he)

theorem PollsAndTicks.reset_not_mem {es : List Event} (h : PollsAndTicks es) : .reset ∉ es :=
  fun hin => by obtain he | he := h _ hin <;> cases he

/-- What a capture run starts from (R194). -/
structure CaptureStart (k : Kernel) (x : RunCmd) (s : State) : Prop where
  active : s.active = some k
  mpc : s.mpc = .poll x
  flags : s.flags = { ovr := false, ovrErr := false, toErr := false, halt := false, done := false }
  sampling : SamplingReady s
  samples : s.run.samples = 0
  cur : s.run.cur = 0
  ns : s.conf.ns ≠ 0

theorem captureProgress_zero {k : Kernel} {x : RunCmd} {s : State} (h : CaptureStart k x s) :
    CaptureProgress k s 0 s where
  kept := ⟨rfl, rfl, rfl, rfl, rfl, rfl, rfl, rfl, rfl, rfl⟩
  frames := ⟨by simp, by simp, nofun⟩
  samples := by rw [h.samples, Nat.zero_mod]; rfl
  cur := by rw [h.cur, Nat.zero_mod, Nat.zero_mul]; rfl
  active := h.active
  done := by rw [h.flags]
  toErr := by rw [h.flags]

/-- The answers of the environment are used up in order (R330). -/
theorem FramesRecorded.nextSample_eq {s t : State} {n : Nat} (h : FramesRecorded s n t) (c ch : Nat) :
    nextSample t c ch = nextSample s (n * s.run.nchrun.toNat + c) ch := by
  rw [nextSample, nextSample, h.answers, h.calls, List.getD_eq_getElem?_getD, List.getElem?_drop,
    ← List.getD_eq_getElem?_getD, Nat.add_assoc]

section Tick

variable {k : Kernel} {x : RunCmd} {s t u : State} {n : Nat}

theorem CaptureProgress.captureReady (h : CaptureProgress k s n t) (hns : 0 < s.conf.ns.toNat) : CaptureReady t := by
  rw [CaptureReady, h.samples, h.cur, h.kept.conf, h.kept.nchrun]
  exact ⟨Nat.mod_lt n hns, rfl⟩

/-- The cursor stands at the slot of the coming tick (R42, R65). -/
theorem CaptureProgress.storeIndex_eq (h : CaptureProgress k s n t) :
    storeIndex t = slotIndex s (n % s.conf.ns.toNat) 0 := by
  rw [storeIndex, h.kept.tbase_eq, h.cur, slotIndex, Nat.add_zero]

/-- Two different slots do not overlap. -/
theorem slotIndex_lt_or_gt {s : State} {f g c d : Nat} (hfg : f ≠ g) (hc : c < s.run.nchrun.toNat) :
    slotIndex s f c < slotIndex s g d ∨ slotIndex s g 0 + s.run.nchrun.toNat ≤ slotIndex s f c := by
  unfold slotIndex
  obtain hlt | hlt := Nat.lt_or_gt_of_ne hfg
  · have hle := Nat.mul_le_mul_right s.run.nchrun.toNat (Nat.succ_le_of_lt hlt)
    rw [Nat.succ_mul] at hle
    exact .inl (by omega)
  · have hle := Nat.mul_le_mul_right s.run.nchrun.toNat (Nat.succ_le_of_lt hlt)
    rw [Nat.succ_mul] at hle
    exact .inr (by omega)

/-- Two of any `NS` ticks in a row use different slots (R67). -/
theorem mod_ne_of_lt_of_lt_add {ns i j : Nat} (hlt : j < i) (hle : i < j + ns) : j % ns ≠ i % ns := by
  intro h
  have hdvd : ns ∣ i - j := (Nat.modEq_iff_dvd' hlt.le).mp h
  exact absurd (Nat.le_of_dvd (by omega) hdvd) (by omega)

/-- A tick that records a frame leaves the frames of the `NS − 1` ticks before it. -/
theorem CaptureProgress.frames_succ (h : CaptureProgress k s n t) (hk : k ≠ .kSwresp) {mem : Memory}
    (hmem : Recorded t mem) (hu : u.mem = mem) (hresets : u.resets = t.resets)
    (henv : u.env = (sampled t mem).env) : FramesRecorded s (n + 1) u := by
  have hword : ∀ i, wordAt u i = wordAt { t with mem := mem } i := fun i => by
    simp only [wordAt, byteAt, hu, hresets]
  refine ⟨?_, ?_, fun j c hj hlast hc => ?_⟩
  · rw [henv, Nat.succ_mul, ← List.drop_drop, ← h.frames.answers, ← h.kept.nchrun]
    rfl
  · rw [henv, Nat.succ_mul, ← Nat.add_assoc, ← h.frames.calls, ← h.kept.nchrun]
    rfl
  rw [hword]
  obtain ⟨hwords, hbytes⟩ := hmem
  rw [h.storeIndex_eq, h.kept.nchrun] at hbytes
  obtain rfl | hbefore : j = n ∨ j < n := by omega
  · have hchannel : channelAt t c = c + 1 := if_neg (by rw [h.active]; simpa using hk)
    have hnew := hwords c (c + 1) (by rw [← hchannel]; exact inputChannels_getElem? t (by rwa [h.kept.nchrun]))
    rw [h.storeIndex_eq, h.frames.nextSample_eq] at hnew
    exact hnew
  · have hslot := slotIndex_lt_or_gt (d := 0) (mod_ne_of_lt_of_lt_add (ns := s.conf.ns.toNat) hbefore (by omega)) hc
    rw [wordAt, hbytes _ (by omega), hbytes _ (by omega)]
    exact h.frames.words j c hbefore (by omega) hc

/-- The slot counters after one more tick, as every capture that goes on leaves them. -/
theorem CaptureProgress.succ_mod (h : CaptureProgress k s n t) (hns : 0 < s.conf.ns.toNat) :
    (n + 1) % s.conf.ns.toNat = if t.run.samples.toNat + 1 = t.conf.ns.toNat then 0 else t.run.samples.toNat + 1 := by
  have hstep := div_mod_succ hns n
  rw [h.samples, h.kept.conf]
  split at hstep
  next hend => rw [if_pos hend, hstep.2]
  next hend => rw [if_neg hend, hstep.2]

/-- A poll while the run is in progress touches nothing of it (R196). -/
theorem CaptureProgress.main (h : CaptureProgress k s n t) (hmpc : s.mpc = .poll x) :
    eventStep .main t = .next (acknowledgeTick t) ∧ CaptureProgress k s n (acknowledgeTick t) :=
  ⟨mainStep_of_in_progress (h.kept.mpc.trans hmpc) h.done,
    { h with kept := { h.kept with }, frames := { h.frames with } }⟩

/-- A tick that records a frame, goes round its slots and leaves the kernel attached takes the run one tick further. -/
theorem CaptureProgress.succ (h : CaptureProgress k s n t) (hs : SamplingReady s) (hns : 0 < s.conf.ns.toNat)
    (hk : k ≠ .kSwresp) (htick : eventStep .tick t = .next u) {mem : Memory} (hrec : Recorded t mem)
    (hmem : u.mem = mem) (henv : u.env = (sampled t mem).env)
    (hsamples : u.run.samples = if t.run.samples.toNat + 1 = t.conf.ns.toNat then 0 else t.run.samples + 1)
    (hcur : u.run.cur = if t.run.samples.toNat + 1 = t.conf.ns.toNat then 0 else (sampled t mem).run.cur)
    (hactive : u.active = some k) : CaptureProgress k s (n + 1) u := by
  have hkept := h.kept.tick h.active htick
  have hready := h.captureReady hns
  have hstored := sampled_captureStored (h.kept.samplingReady hs) hready mem
  have hmod := h.succ_mod hns
  obtain ⟨f, htoErr⟩ := tickStep_frame h.active htick
  have hdone : u.flags.done = t.flags.done := f.ended.elim And.right fun hend => by
    rw [hactive] at hend
    cases hend.1
  have hkeptErr : u.flags.toErr = t.flags.toErr := htoErr.elim id fun ⟨_, hend⟩ => by
    have hnone := hend.detached
    rw [hactive] at hnone
    cases hnone
  refine ⟨hkept, h.frames_succ hk hrec hmem (hkept.resets.trans h.kept.resets.symm) henv, ?_, ?_, hactive,
    hdone.trans h.done, hkeptErr.trans h.toErr⟩ <;> rw [hmod]
  · rw [hsamples]
    split
    · rfl
    · exact toNat_add_one_of_lt hready.1
  · rw [hcur]
    split
    · rw [Nat.zero_mul]
      rfl
    · rw [← h.kept.nchrun]
      exact hstored.2

end Tick

/-- A capture run of which a tick has detached the kernel, before its last poll. -/
structure CaptureEnded (s : State) (n : Nat) (u : State) : Prop where
  kept : RunKept s u
  frames : FramesRecorded s n u
  active : u.active = none
  done : u.flags.done = true
  toErr : u.flags.toErr = false

/-- The reply to a run of which ticks `first` to `first + NS − 1` are delivered, channel by channel (R199, R222). -/
def windowPayload (st : Byte) (first : Nat) (s : State) : List Byte :=
  [st, BitVec.setWidth 8 s.run.nchrun, s.conf.ndig] ++ wordBytes s.conf.ns ++
    (List.range s.run.nchrun.toNat).flatMap fun c => (List.range s.conf.ns.toNat).flatMap fun j =>
      wordBytes (nextSample s ((first + j) * s.run.nchrun.toNat + c) (c + 1))

/-- Read from the slot of the oldest frame on, the buffer yields the frames of the last `NS` ticks in order. -/
theorem CaptureEnded.capturePayload_eq {s u : State} {n start : Nat} (h : CaptureEnded s n u) (st : Byte)
    (hns : s.conf.ns.toNat ≤ n)
    (hstart : ∀ j, (start + j) % s.conf.ns.toNat = (n - s.conf.ns.toNat + j) % s.conf.ns.toNat) :
    capturePayload st start u = windowPayload st (n - s.conf.ns.toNat) s := by
  have hslot : ∀ f c, slotIndex u f c = slotIndex s f c := fun f c => by
    rw [slotIndex, slotIndex, h.kept.tbase_eq, h.kept.nchrun]
  simp only [capturePayload, windowPayload, drainIndices, h.kept.nchrun, h.kept.conf, hslot, hstart, List.flatMap_assoc,
    List.flatMap_map]
  refine congrArg _ (List.flatMap_congr fun c hc => List.flatMap_congr fun j hj => ?_)
  rw [List.mem_range] at hc hj
  rw [h.frames.words _ c (by omega) (by omega) hc]

/-- The poll after the last tick answers the run (R197, R199), with the status of a run that neither a halt nor a
timeout ended (R198). -/
theorem CaptureEnded.main {k : Kernel} {x : RunCmd} {s u : State} {n start : Nat} (h : CaptureEnded s n u)
    (hs : CaptureStart k x s) (hcrc : s.link.crcTx = 0) (hx : runPayload x u = capturePayload (status u) start u)
    (hns : s.conf.ns.toNat ≤ n)
    (hstart : ∀ j, (start + j) % s.conf.ns.toNat = (n - s.conf.ns.toNat + j) % s.conf.ns.toNat) :
    ∃ v st, eventStep .main u = .next v ∧ v.mpc = .fetch ∧ v.active = none ∧
      (u.flags.ovrErr = true → st = s.cfg.stOverrun) ∧ (¬ u.flags.ovrErr = true → st = s.cfg.stOk) ∧
      v.link.tx = s.link.tx ++ windowPayload st (n - s.conf.ns.toNat) s ++
        [xorBytes (windowPayload st (n - s.conf.ns.toNat) s)] := by
  obtain ⟨-, -, -, -, -, hfits⟩ := h.kept.samplingReady hs.sampling
  have hpoll := mainStep_of_done (h.kept.mpc.trans hs.mpc) h.done (by rw [h.kept.link, hcrc])
    (by rw [h.kept.conf]; exact hs.ns) fun _ => hfits
  have hhalt : u.flags.halt = false := by rw [h.kept.halt, hs.flags]
  obtain ⟨-, -, hoverrun, hok⟩ := statusPriority u
  rw [h.kept.cfg] at hoverrun hok
  refine ⟨_, status u, hpoll, rfl, h.active, hoverrun hhalt h.toErr,
    fun hclear => hok hhalt h.toErr (Bool.not_eq_true _ ▸ hclear), ?_⟩
  rw [← h.capturePayload_eq _ hns hstart, ← hx, ← h.kept.link]
  rfl

/-! ### A whole async run (R221, R222) -/

section Async

variable {s t : State} {n : Nat}

/-- One tick of an async run: it goes on, or it was the last. -/
theorem CaptureProgress.async_tick (h : CaptureProgress .kAsync s n t) (hs : CaptureStart .kAsync .asyncrd s)
    (hn : n < s.conf.ns.toNat) : ∃ u, eventStep .tick t = .next u ∧
      (n + 1 < s.conf.ns.toNat → CaptureProgress .kAsync s (n + 1) u) ∧
      (n + 1 = s.conf.ns.toNat → CaptureEnded s (n + 1) u) := by
  have hns := zero_lt_size hs.ns
  have hhalt : t.flags.halt = false := by rw [h.kept.halt, hs.flags]
  obtain ⟨mem, hrec, htick⟩ := asyncTickStoresFrame t h.active hhalt (h.kept.samplingReady hs.sampling)
    (h.captureReady hns)
  dsimp only at htick
  have hlast : t.run.samples.toNat + 1 = t.conf.ns.toNat ↔ n + 1 = s.conf.ns.toNat := by
    rw [h.samples, Nat.mod_eq_of_lt hn, h.kept.conf]
  refine ⟨_, htick, fun hmore => ?_, fun hend => ?_⟩
  · have hnot := hlast.not.mpr hmore.ne
    rw [if_neg hnot] at htick ⊢
    exact h.succ hs.sampling hns nofun htick hrec rfl rfl (if_neg hnot).symm (if_neg hnot).symm h.active
  · rw [if_pos (hlast.mpr hend)] at htick ⊢
    have hkept := h.kept.tick h.active htick
    exact ⟨hkept, h.frames_succ nofun hrec rfl rfl rfl, rfl, rfl, h.toErr⟩

theorem asyncProgress_of_runEvents (hs : CaptureStart .kAsync .asyncrd s) (es : List Event) (hes : PollsAndTicks es)
    (hlt : es.count .tick < s.conf.ns.toNat) :
    ∃ t, runEvents es s = .next t ∧ CaptureProgress .kAsync s (es.count .tick) t := by
  induction es using List.reverseRecOn with
  | nil => exact ⟨s, rfl, captureProgress_zero hs⟩
  | append_singleton es e ih =>
    have hle : es.count .tick ≤ (es ++ [e]).count .tick := (List.sublist_append_left _ _).count_le _
    obtain ⟨t, ht, hprogress⟩ := ih hes.of_append (by omega)
    have hstep : ∃ u, eventStep e t = .next u ∧ CaptureProgress .kAsync s ((es ++ [e]).count .tick) u := by
      obtain rfl | rfl := hes e (by simp)
      · exact ⟨_, by simpa using hprogress.main hs.mpc⟩
      · obtain ⟨u, hu, hmore, -⟩ := hprogress.async_tick hs (by omega)
        exact ⟨u, hu, by simpa using hmore (by simpa using hlt)⟩
    obtain ⟨u, hu, hprogress'⟩ := hstep
    exact ⟨u, by rw [runEvents_append ht, runEvents, hu]; rfl, hprogress'⟩

/-- A run of `NS` ticks, the last event a tick, ends with it; the overrun flag tells whether a poll was missed. -/
theorem captureEnded_of_async (hs : CaptureStart .kAsync .asyncrd s) {es : List Event}
    (hes : PollsAndTicks (es ++ [.tick])) (hcount : (es ++ [Event.tick]).count .tick = s.conf.ns.toNat) :
    ∃ u, runEvents (es ++ [.tick]) s = .next u ∧ CaptureEnded s s.conf.ns.toNat u ∧
      (u.flags.ovrErr = true ↔ MissedPoll (es ++ [.tick])) := by
  have hbefore := hes.of_append
  have hlt : es.count .tick + 1 = s.conf.ns.toNat := by simpa using hcount
  have hprefix : ∀ m, ∃ v, runEvents (es.take m) s = .next v ∧ CaptureProgress .kAsync s ((es.take m).count .tick) v :=
    fun m => by
      have hle := (List.take_sublist m es).count_le Event.tick
      exact asyncProgress_of_runEvents hs _ (hbefore.take m) (by omega)
  obtain ⟨t, ht, hprogress⟩ := asyncProgress_of_runEvents hs es hbefore (by omega)
  obtain ⟨u, hu, -, hended⟩ := hprogress.async_tick hs (by omega)
  refine ⟨u, by rw [runEvents_append ht, runEvents, hu]; rfl, hlt ▸ hended hlt, ?_⟩
  refine overrunMeansMissedPoll es s t u .asyncrd hbefore.reset_not_mem hs.mpc (by rw [hs.flags]) (by rw [hs.flags])
    (by rw [hs.flags]) (fun m v hv => ?_) ht hu
  obtain ⟨v', hv', hprogress'⟩ := hprefix m
  obtain rfl := Host.Outcome.next.inj (hv'.symm.trans hv)
  rw [hprogress'.active]
  exact nofun

end Async

/-- Settles O58: the run ends with its `NS`-th tick, and the poll after it finds frame `j` in slot `j`. -/
theorem asyncRunDeliversSamples : Obligations.AsyncRunDeliversSamples := by
  intro es s hes hk hmpc hflags hcrc hsampling hsamples hcur hns hcount hlast
  have hs : CaptureStart .kAsync .asyncrd s := ⟨hk, hmpc, hflags, hsampling, hsamples, hcur, hns⟩
  obtain ⟨es, rfl⟩ := List.getLast?_eq_some_iff.mp hlast
  obtain ⟨u, hu, hended, hmissed⟩ := captureEnded_of_async hs hes hcount
  obtain ⟨v, st, hv, hfetch, hnone, hoverrun, hok, htx⟩ := hended.main (start := 0) hs hcrc rfl le_rfl (by simp)
  rw [hmissed] at hoverrun hok
  refine ⟨v, st, by rw [runEvents_append hu, runEvents, hv]; rfl, hfetch, hnone, hoverrun, hok, ?_⟩
  simpa [windowPayload] using htx

/-! ### A whole triggered run (R227 to R234) -/

/-- Tick `i` crossed the level, with the presamples behind it; of the postsamples `n` ticks have left the rest. -/
def TriggerFound (s : State) (n : Nat) (t : State) : Prop :=
  ∃ i, s.conf.ns.toNat / 2 ≤ i ∧
    crosses s.trig.edge s.trig.level (nextSample s (i * s.run.nchrun.toNat) 1) = true ∧
    t.run.trigIdx.toNat = i % s.conf.ns.toNat ∧ n + t.run.post.toNat = i + 1 + s.run.post.toNat

/-- What each phase tells of the `n` ticks of a triggered run so far (R229 to R232). -/
def TriggerPhase (s : State) (n : Nat) (t : State) : Prop :=
  match t.run.phase with
  | .prefill => t.run.pre.toNat + n = s.conf.ns.toNat / 2 ∧ t.run.post = s.run.post
  | .armPre | .armPost => s.conf.ns.toNat / 2 ≤ n ∧ t.run.post = s.run.post
  | .capture => t.run.post ≠ 0 ∧ TriggerFound s n t

/-- The phase logic writes neither buffer nor environment nor slot counters, and records no timeout. -/
theorem phaseStep_keeps {a slot : Word} {s t : State} (h : phaseStep a slot s = .ok t) :
    t.mem = s.mem ∧ t.env = s.env ∧ t.run.samples = s.run.samples ∧ t.run.cur = s.run.cur ∧
      t.flags.toErr = s.flags.toErr := by
  cases hphase : s.run.phase with
  | prefill =>
    rw [phaseStep_prefill hphase] at h
    cases h
    exact ⟨rfl, rfl, rfl, rfl, rfl⟩
  | armPre =>
    rw [phaseStep_armPre hphase] at h
    split at h <;> cases h <;> exact ⟨rfl, rfl, rfl, rfl, rfl⟩
  | armPost =>
    rw [phaseStep_armPost hphase] at h
    dsimp only at h
    split_ifs at h <;> cases h <;> exact ⟨rfl, rfl, rfl, rfl, rfl⟩
  | capture =>
    rw [phaseStep, hphase] at h
    rw [phaseCapture_ok h]
    split <;> exact ⟨rfl, rfl, rfl, rfl, rfl⟩

section Trigger

variable {s t u : State} {n : Nat}

theorem triggerPhase_prefill_iff (h : t.run.phase = .prefill) :
    TriggerPhase s n t ↔ t.run.pre.toNat + n = s.conf.ns.toNat / 2 ∧ t.run.post = s.run.post := by
  rw [TriggerPhase, h]

theorem triggerPhase_armed_iff (h : t.run.phase = .armPre ∨ t.run.phase = .armPost) :
    TriggerPhase s n t ↔ s.conf.ns.toNat / 2 ≤ n ∧ t.run.post = s.run.post := by
  obtain h | h := h <;> rw [TriggerPhase, h]

theorem triggerPhase_capture_iff (h : t.run.phase = .capture) :
    TriggerPhase s n t ↔ t.run.post ≠ 0 ∧ TriggerFound s n t := by
  rw [TriggerPhase, h]

/-- Tick `n` ended a triggered run by its trigger: no postsample is left. -/
structure TriggerEnded (s : State) (n : Nat) (u : State) : Prop where
  active : u.active = none
  done : u.flags.done = true
  post : u.run.post = 0
  found : TriggerFound s n u

/-- In Prefill a tick takes one presample, the last of them arming the trigger (R229). -/
theorem TriggerPhase.step_prefill {a slot : Word} (h : TriggerPhase s n t) (hphase : t.run.phase = .prefill)
    (hstep : phaseStep a slot t = .ok u) : u.active = t.active ∧ TriggerPhase s (n + 1) u := by
  obtain ⟨hpre, hpost⟩ := (triggerPhase_prefill_iff hphase).mp h
  rw [phaseStep_prefill hphase] at hstep
  cases hstep
  refine ⟨rfl, ?_⟩
  by_cases hlast : t.run.pre.toNat ≤ 1
  · rw [triggerPhase_armed_iff (.inl (if_pos hlast))]
    exact ⟨by omega, hpost⟩
  · have hne : t.run.pre ≠ 0 := fun e => hlast (by rw [e]; decide)
    have hleft : (t.run.pre - 1).toNat + (n + 1) = s.conf.ns.toNat / 2 := by
      rw [toNat_sub_one hne]
      omega
    rw [triggerPhase_prefill_iff (if_neg hlast), if_neg hne]
    exact ⟨hleft, hpost⟩

/-- A tick whose sample crosses the level finds the trigger; it ends the run where no postsample is asked for (R231). -/
theorem TriggerPhase.step_armPost {a slot : Word} (h : TriggerPhase s n t) (hphase : t.run.phase = .armPost)
    (hslot : slot.toNat = n % s.conf.ns.toNat)
    (ha : crosses t.trig.edge t.trig.level a =
      crosses s.trig.edge s.trig.level (nextSample s (n * s.run.nchrun.toNat) 1))
    (hstep : phaseStep a slot t = .ok u) :
    (u.active = t.active ∧ TriggerPhase s (n + 1) u) ∨ TriggerEnded s (n + 1) u := by
  obtain ⟨hn, hpost⟩ := (triggerPhase_armed_iff (.inr hphase)).mp h
  have hcount : n + 1 + t.run.post.toNat = n + 1 + s.run.post.toNat := by rw [hpost]
  rw [phaseStep_armPost hphase] at hstep
  simp only [← crosses_iff, ha] at hstep
  split_ifs at hstep with hcross hzero <;> cases hstep
  · exact .inr ⟨rfl, rfl, hzero, n, hn, hcross, hslot, hcount⟩
  · exact .inl ⟨rfl, (triggerPhase_capture_iff rfl).mpr ⟨hzero, n, hn, hcross, hslot, hcount⟩⟩
  · exact .inl ⟨rfl, (triggerPhase_armed_iff (.inr hphase)).mpr ⟨by omega, hpost⟩⟩

/-- A postsample more has been taken; the last one ends the run (R232). -/
theorem TriggerPhase.step_capture {a slot : Word} (h : TriggerPhase s n t) (hphase : t.run.phase = .capture)
    (hstep : phaseStep a slot t = .ok u) :
    (u.active = t.active ∧ TriggerPhase s (n + 1) u) ∨ TriggerEnded s (n + 1) u := by
  obtain ⟨hleft, i, hi, hcross, hslot, hcount⟩ := (triggerPhase_capture_iff hphase).mp h
  have hcount' : n + 1 + (t.run.post - 1).toNat = i + 1 + s.run.post.toNat := by
    have hpos : t.run.post.toNat ≠ 0 := fun e => hleft (BitVec.eq_of_toNat_eq e)
    rw [toNat_sub_one hleft]
    omega
  rw [phaseStep_capture hphase hleft] at hstep
  dsimp only at hstep
  split_ifs at hstep with hone <;> cases hstep
  · exact .inr ⟨rfl, rfl, sub_eq_zero.mpr hone, i, hi, hcross, hslot, hcount'⟩
  · exact .inl ⟨rfl, (triggerPhase_capture_iff (by exact hphase)).mpr
      ⟨sub_ne_zero.mpr hone, i, hi, hcross, hslot, hcount'⟩⟩

/-- The phase logic of tick `n`, in slot `n mod NS`, goes on with the run or ends it by its trigger. -/
theorem TriggerPhase.step {a slot : Word} (h : TriggerPhase s n t) (hslot : slot.toNat = n % s.conf.ns.toNat)
    (ha : crosses t.trig.edge t.trig.level a =
      crosses s.trig.edge s.trig.level (nextSample s (n * s.run.nchrun.toNat) 1))
    (hstep : phaseStep a slot t = .ok u) :
    (u.active = t.active ∧ TriggerPhase s (n + 1) u) ∨ TriggerEnded s (n + 1) u := by
  cases hphase : t.run.phase with
  | prefill => exact .inl (h.step_prefill hphase hstep)
  | armPre =>
    obtain ⟨hn, hpost⟩ := (triggerPhase_armed_iff (.inl hphase)).mp h
    rw [phaseStep_armPre hphase] at hstep
    split at hstep <;> cases hstep
    · exact .inl ⟨rfl, (triggerPhase_armed_iff (.inr rfl)).mpr ⟨by omega, hpost⟩⟩
    · exact .inl ⟨rfl, (triggerPhase_armed_iff (.inl hphase)).mpr ⟨by omega, hpost⟩⟩
  | armPost => exact h.step_armPost hphase hslot ha hstep
  | capture => exact h.step_capture hphase hstep

/-- A tick of a triggered run goes on with it, times out, or ends it by its trigger. -/
theorem CaptureProgress.trig_tick (h : CaptureProgress .kTrig s n t) (hs : CaptureStart .kTrig .trigrd s)
    (hphase : TriggerPhase s n t) (htick : eventStep .tick t = .next u) :
    (CaptureProgress .kTrig s (n + 1) u ∧ TriggerPhase s (n + 1) u) ∨ (u.active = none ∧ u.flags.toErr = true) ∨
      (CaptureEnded s (n + 1) u ∧ TriggerEnded s (n + 1) u) := by
  have hns := zero_lt_size hs.ns
  have hhalt : t.flags.halt = false := by rw [h.kept.halt, hs.flags]
  have hsettle : settle (tickTrig (overrunHandshake t)) = .next u :=
    (tickStep_of_not_halted h.active hhalt).symm.trans htick
  obtain ⟨mem, hrec, hbody⟩ := tickTrig_eq (s := overrunHandshake t) (h.kept.samplingReady hs.sampling)
    (h.captureReady hns)
  replace hbody := hbody.symm.trans (settle_next hsettle)
  split at hbody
  · cases hbody
    exact .inr (.inl ⟨rfl, rfl⟩)
  obtain ⟨hmem, henv, hsamples, hcur, htoErr⟩ := phaseStep_keeps hbody
  have hchannel : channelAt t 0 = 1 := if_neg (by rw [h.active]; exact nofun)
  have hcrosses : crosses t.trig.edge t.trig.level (nextSample t 0 (channelAt t 0)) =
      crosses s.trig.edge s.trig.level (nextSample s (n * s.run.nchrun.toNat) 1) := by
    rw [hchannel, h.frames.nextSample_eq, Nat.add_zero, h.kept.edge, h.kept.level]
  obtain ⟨hactive, hphase'⟩ | hended := TriggerPhase.step (t := slotRecorded (overrunHandshake t) mem) hphase h.samples
    hcrosses hbody
  · exact .inl ⟨h.succ hs.sampling hns nofun htick hrec hmem henv hsamples hcur (hactive.trans h.active), hphase'⟩
  · have hkept := h.kept.tick h.active htick
    have hframes := h.frames_succ nofun hrec hmem (hkept.resets.trans h.kept.resets.symm) henv
    exact .inr (.inr ⟨⟨hkept, hframes, hended.active, hended.done, htoErr.trans h.toErr⟩, hended⟩)

theorem trigProgress_of_runEvents (hs : CaptureStart .kTrig .trigrd s) (hphase : TriggerPhase s 0 s) (es : List Event)
    (hes : PollsAndTicks es) (hattached : AttachedThroughout es s) (ht : runEvents es s = .next t) :
    CaptureProgress .kTrig s (es.count .tick) t ∧ TriggerPhase s (es.count .tick) t := by
  induction es using List.reverseRecOn generalizing t with
  | nil =>
    obtain rfl := Host.Outcome.next.inj ht
    exact ⟨captureProgress_zero hs, hphase⟩
  | append_singleton es e ih =>
    obtain ⟨v, hv, hstep⟩ := runEvents_append_singleton ht
    obtain ⟨hprogress, hphase'⟩ := ih hes.of_append hattached.of_append hv
    have hactive := hattached.last ht
    rw [List.count_append]
    obtain rfl | rfl := hes e (by simp)
    · obtain ⟨hmain, hprogress'⟩ := hprogress.main hs.mpc
      obtain rfl := Host.Outcome.next.inj (hmain.symm.trans hstep)
      exact ⟨hprogress', hphase'⟩
    · obtain hmore | ⟨hnone, -⟩ | ⟨hended, -⟩ := hprogress.trig_tick hs hphase' hstep
      · exact hmore
      · exact absurd hnone hactive
      · exact absurd hended.active hactive

/-- The crossing tick of a run that its trigger ended stands `NS div 2` after the first of the last `NS` ticks. -/
theorem TriggerEnded.window (h : TriggerEnded s n u)
    (hpost : s.run.post.toNat = s.conf.ns.toNat - s.conf.ns.toNat / 2 - 1) (hns : 0 < s.conf.ns.toNat) :
    s.conf.ns.toNat ≤ n ∧
      crosses s.trig.edge s.trig.level
        (nextSample s ((n - s.conf.ns.toNat + s.conf.ns.toNat / 2) * s.run.nchrun.toNat) 1) = true ∧
      u.run.trigIdx.toNat = (n - s.conf.ns.toNat + s.conf.ns.toNat / 2) % s.conf.ns.toNat := by
  obtain ⟨i, hi, hcross, hslot, hcount⟩ := h.found
  have hzero : u.run.post.toNat = 0 := by rw [h.post]; rfl
  obtain rfl : i = n - s.conf.ns.toNat + s.conf.ns.toNat / 2 := by omega
  exact ⟨by omega, hcross, hslot⟩

/-- The reply begins `NS div 2` slots before the trigger's, which is where the oldest frame lies (R197, R227). -/
theorem triggerStart_add_mod {first : Nat} (hconf : u.conf = s.conf)
    (hslot : u.run.trigIdx.toNat = (first + s.conf.ns.toNat / 2) % s.conf.ns.toNat) (j : Nat) :
    (triggerStart u + j) % s.conf.ns.toNat = (first + j) % s.conf.ns.toNat := by
  have hstart : triggerStart u = first % s.conf.ns.toNat := by
    simp only [triggerStart, hconf, hslot]
    rw [Nat.add_sub_assoc (Nat.div_le_self _ _), Nat.mod_add_mod, ← Nat.add_mod_right first]
    congr 1
    omega
  rw [hstart, Nat.mod_add_mod]

end Trigger

/-- What O59 was to say. Its kernel stays attached until the last tick, as in O55's runs, and that tick ends the run by
the trigger: then the run is answered with its last `NS` ticks, the crossing one at position `NS div 2` (R227, R234). -/
theorem triggeredRun_window_is_centred {es : List Event} {s t : State} (hs : CaptureStart .kTrig .trigrd s)
    (hcrc : s.link.crcTx = 0) (hphase : s.run.phase = .prefill) (hpre : s.run.pre.toNat = s.conf.ns.toNat / 2)
    (hpost : s.run.post.toNat = s.conf.ns.toNat - s.conf.ns.toNat / 2 - 1) (hes : PollsAndTicks es)
    (hattached : AttachedThroughout es s) (ht : runEvents (es ++ [.tick]) s = .next t) (hnone : t.active = none)
    (hto : t.flags.toErr = false) :
    let first := (es ++ [Event.tick]).count .tick - s.conf.ns.toNat
    s.conf.ns.toNat ≤ (es ++ [Event.tick]).count .tick ∧
      crosses s.trig.edge s.trig.level (nextSample s ((first + s.conf.ns.toNat / 2) * s.run.nchrun.toNat) 1) = true ∧
      ∃ u st, eventStep .main t = .next u ∧ u.mpc = .fetch ∧
        (MissedPoll (es ++ [.tick]) → st = s.cfg.stOverrun) ∧ (¬ MissedPoll (es ++ [.tick]) → st = s.cfg.stOk) ∧
        u.link.tx = s.link.tx ++ windowPayload st first s ++ [xorBytes (windowPayload st first s)] := by
  have hns := zero_lt_size hs.ns
  obtain ⟨v, hv, htick⟩ := runEvents_append_singleton ht
  obtain ⟨hprogress, hphase'⟩ := trigProgress_of_runEvents hs
    ((triggerPhase_prefill_iff hphase).mpr ⟨by rw [hpre, Nat.add_zero], rfl⟩) es hes hattached hv
  have hmissed : t.flags.ovrErr = true ↔ MissedPoll (es ++ [.tick]) :=
    overrunMeansMissedPoll es s v t .trigrd hes.reset_not_mem hs.mpc (by rw [hs.flags]) (by rw [hs.flags])
      (by rw [hs.flags]) hattached hv htick
  rw [List.count_append]
  obtain ⟨hmore, -⟩ | ⟨-, htimeout⟩ | ⟨hended, htrigger⟩ := hprogress.trig_tick hs hphase' htick
  · rw [hmore.active] at hnone
    cases hnone
  · rw [hto] at htimeout
    cases htimeout
  obtain ⟨hlong, hcross, hslot⟩ := htrigger.window hpost hns
  obtain ⟨u, st, hu, hfetch, -, hoverrun, hok, htx⟩ :=
    hended.main hs hcrc rfl hlong (triggerStart_add_mod hended.kept.conf hslot)
  rw [hmissed] at hoverrun hok
  exact ⟨hlong, hcross, u, st, hu, hfetch, hoverrun, hok, htx⟩

/-! ### A triggered run with another behind it (R75)

The statement of O59 asks that a kernel is attached before the last tick, and not that it has been since the start. Nor
does it ask `RX` to be empty: bytes the host sent before, which wait there during a run, make the schedule go on to a
second run once the triggered one is answered, and then the last ticks are those of the second run. With the kernel
attached throughout, `triggeredRun_window_is_centred` says what was meant. -/

/-- A triggered run of two samples on two channels with an ASYNCRD frame waiting in `RX`; the second run will read
zeros. -/
def triggeredFrameWaiting : State :=
  { Tests.running .trigrd with
    trig := { level := 0x8000, edge := .rising, tocnt := 0 }
    link := { (Tests.running .trigrd).link with rx := [0x59, 0x59] }
    env := { (Tests.running .trigrd).env with adc := (Tests.running .trigrd).env.adc ++ [0, 0, 0, 0] } }

/-- The triggered run ends with the third tick; its answer, the waiting frame, and an async run of two ticks. -/
def twoRunSchedule : List Event := [.tick, .main, .tick, .main, .tick, .main, .main, .tick, .main, .tick]

theorem twoRunSchedule_attached :
    ∀ v, runEvents twoRunSchedule.dropLast triggeredFrameWaiting = .next v → v.active ≠ none := by
  intro v h
  cases h
  decide

theorem twoRunSchedule_ends :
    ∃ t, runEvents twoRunSchedule triggeredFrameWaiting = .next t ∧ t.active = none ∧ t.flags.toErr = false :=
  ⟨_, rfl, by decide, by decide⟩

/-- Refutes O59: after the two runs the tick at position `NS div 2` of the last `NS` is one of the async run, whose
sample of 0 does not cross the level. -/
theorem not_triggeredWindowIsCentred : ¬ Obligations.TriggeredWindowIsCentred := by
  intro h
  obtain ⟨t, ht, hended, hto⟩ := twoRunSchedule_ends
  obtain ⟨-, hcross, -⟩ := h twoRunSchedule triggeredFrameWaiting t (by unfold PollsAndTicks; decide) rfl rfl rfl rfl
    (Tests.running_sampling .trigrd).1 rfl rfl rfl (by decide) (by decide) (by decide) rfl twoRunSchedule_attached ht
    hended hto
  exact absurd hcross (by decide)

end Sys2Proof.Machine

/-! SUPPORT. Capture.lean: the statements of spec/44_capture_kernels.md. With the defaults of a profile the capture
commands start and the wave commands do not (R354), and a triggered run with a timeout ends in time, whatever it samples
(R228, R336). -/

namespace Sys2Proof.Machine

/-! ### The defaults are runnable (R354) -/

section Defaults

variable {s : State}

/-- The tables of the default configuration are empty, so that its reservation is the one R6 makes fit. -/
theorem defaults_fit (hl : s.cfg.Legal) (hconf : s.conf = ConfigRegs.initial s.cfg) :
    s.conf.nch.toNat * s.conf.ns.toNat + tbase s ≤ s.cfg.bsize.toNat := by
  rw [tbase, hconf]
  exact hl.defaultFits

/-- What a started run with the configured channel count has of the defaults (R194). -/
theorem started_of_defaults (hconf : s.conf = ConfigRegs.initial s.cfg) (k : Kernel) (x : RunCmd) {run : RunRegs}
    (hrun : run.nchrun = s.conf.nch) :
    (started k x run s).active = some k ∧ (started k x run s).run.nchrun = s.cfg.nch0 ∧
      (started k x run s).conf.ns = s.cfg.ns0 ∧ (started k x run s).conf.per = s.cfg.per0 ∧
      (started k x run s).io = s.io ++ [.timerAttach s.cfg.per0] := by
  simp [started, hrun, hconf, ConfigRegs.initial]

/-- Without a primary table no wave command starts, whatever its operands (R312). -/
theorem exec_wave_of_no_table {i : Instr} (h : Accepts i.chk s) (hws : s.conf.ws = 0)
    (hcmd : i.cmd ∈ [Cmd.wresp, .dwresp, .swresp, .wplay, .dwplay]) : exec i s = .next (nackReply s) := by
  obtain ⟨-, -, -, hempty, -⟩ := runCommandsRefuse s i.chk h
  obtain ⟨hwresp, hdwresp, hswresp, hwplay, hdwplay⟩ := hempty hws
  cases i with
  | wresp count => exact hwresp count
  | dwresp count => exact hdwresp count
  | swresp channel count => exact hswresp channel count
  | wplay count => exact hwplay count
  | dwplay count => exact hdwplay count
  | fwstr | magicq | caps | pins | anard | anawr | setper | setsto | asyncrd | trigrd | steprsp | loadp | loads
  | diomode | diowr | diord | setnavg | softrst => simp [Instr.cmd] at hcmd

end Defaults

/-- Settles O42: the default reservation fits and the timeout of the default period does, so the capture commands
start; the empty tables refuse the wave commands. -/
theorem defaultsAreRunnable : Obligations.DefaultsAreRunnable := by
  intro s chk hl hconf h
  have hlegal : s.conf.Legal s.cfg := hconf ▸ ConfigRegs.initial_legal hl
  obtain ⟨hasync, hstep, htrig⟩ := captureCommandsStartRuns s chk h (defaults_fit hl hconf)
  refine ⟨⟨_, hasync, started_of_defaults hconf _ _ rfl⟩, fun v => ⟨_, hstep v, started_of_defaults hconf _ _ rfl⟩,
    fun level seconds => ?_, ?_⟩
  · have hticks := timeoutTicks_lt (seconds := seconds) hl hlegal.perLegal
    exact ⟨⟨_, htrig level _ seconds .rising (.inl ⟨rfl, rfl⟩) hticks,
        started_of_defaults hconf .kTrig .trigrd rfl, rfl⟩,
      ⟨_, htrig level _ seconds .falling (.inr ⟨hl.edges.symm, rfl, rfl⟩) hticks,
        started_of_defaults hconf .kTrig .trigrd rfl, rfl⟩⟩
  · rintro i rfl hcmd
    exact exec_wave_of_no_table h (by rw [hconf]; rfl) hcmd

/-! ### A triggered run with a timeout ends (R228 to R232, R336)

Until the trigger is found every tick counts the timeout down, and from then on every tick counts the postsamples down.
Hence the sum of both counts, of which the timeout no longer matters in phase Capture, falls with each tick. -/

/-- The ticks a triggered run with a timeout can still take. -/
def ticksLeft (s : State) : Nat :=
  if s.run.phase = .capture then s.run.post.toNat else s.trig.tocnt.toNat + s.run.post.toNat

/-- A triggered run is in progress, and while its trigger is not found its timeout is running. -/
structure TimedRun (s : State) : Prop where
  active : s.active = some .kTrig
  mpc : s.mpc = .poll .trigrd
  done : s.flags.done = false
  halt : s.flags.halt = false
  sampling : SamplingReady s
  counters : CaptureReady s
  postsampling : s.run.phase = .capture → s.run.post ≠ 0
  timed : s.run.phase ≠ .capture → s.trig.tocnt ≠ 0

section Timeout

variable {s u : State}

/-- A count that is not yet 0 falls when it is counted down. -/
theorem toNat_sub_one_lt {w : Nat} {c : BitVec w} (h : c ≠ 0) : (c - 1).toNat < c.toNat := by
  rw [toNat_sub_one h]
  exact Nat.sub_one_lt (BitVec.toNat_pos_of_ne_zero h).ne'

theorem ticksLeft_of_capture (h : s.run.phase = .capture) : ticksLeft s = s.run.post.toNat := if_pos h

theorem ticksLeft_of_not_capture (h : s.run.phase ≠ .capture) :
    ticksLeft s = s.trig.tocnt.toNat + s.run.post.toNat := if_neg h

theorem TimedRun.ticksLeft_pos (h : TimedRun s) : 0 < ticksLeft s := by
  by_cases hphase : s.run.phase = .capture
  · rw [ticksLeft_of_capture hphase]
    exact BitVec.toNat_pos_of_ne_zero (h.postsampling hphase)
  · rw [ticksLeft_of_not_capture hphase]
    exact Nat.add_pos_left (BitVec.toNat_pos_of_ne_zero (h.timed hphase)) _

/-- A poll leaves the run, and the ticks it can still take, as they are (R196). -/
theorem TimedRun.main (h : TimedRun s) :
    eventStep .main s = .next (acknowledgeTick s) ∧ TimedRun (acknowledgeTick s) ∧
      ticksLeft (acknowledgeTick s) = ticksLeft s :=
  ⟨mainStep_of_in_progress h.mpc h.done, { h with }, rfl⟩

/-- What the phase logic does to the counts of a run it does not end: it waits for the trigger, finds it, or takes a
postsample (R229 to R232). -/
theorem phaseStep_counts {a slot : Word} (h : phaseStep a slot s = .ok u)
    (hpost : s.run.phase = .capture → s.run.post ≠ 0) (hactive : u.active ≠ none) :
    (s.run.phase ≠ .capture ∧ u.run.phase ≠ .capture ∧ u.trig = s.trig ∧ u.run.post = s.run.post) ∨
      (s.run.phase ≠ .capture ∧ u.run.phase = .capture ∧ u.run.post = s.run.post) ∨
      (s.run.phase = .capture ∧ u.run.phase = .capture ∧ u.run.post = s.run.post - 1) := by
  cases hphase : s.run.phase with
  | prefill =>
    rw [phaseStep_prefill hphase] at h
    cases h
    exact .inl ⟨nofun, by dsimp only; split <;> exact nofun, rfl, rfl⟩
  | armPre =>
    rw [phaseStep_armPre hphase] at h
    split at h <;> cases h
    · exact .inl ⟨nofun, nofun, rfl, rfl⟩
    · exact .inl ⟨nofun, hphase ▸ nofun, rfl, rfl⟩
  | armPost =>
    rw [phaseStep_armPost hphase] at h
    dsimp only at h
    split_ifs at h <;> cases h
    · exact absurd rfl hactive
    · exact .inr (.inl ⟨nofun, rfl, rfl⟩)
    · exact .inl ⟨nofun, hphase ▸ nofun, rfl, rfl⟩
  | capture =>
    rw [phaseStep_capture hphase (hpost hphase)] at h
    dsimp only at h
    split at h <;> cases h
    · exact absurd rfl hactive
    · exact .inr (.inr ⟨rfl, hphase, rfl⟩)

/-- A body that leaves the kernel attached counts the timeout down before the trigger is found, and the postsamples
after it; found at this very tick, the trigger makes the timeout no longer matter (R228 to R232). -/
theorem TimedRun.counts_of_tickTrig (h : TimedRun s) (hbody : tickTrig (overrunHandshake s) = .ok u)
    (hactive : u.active ≠ none) :
    (u.run.phase ≠ .capture → u.trig.tocnt ≠ 0) ∧ ticksLeft u < ticksLeft s := by
  obtain ⟨mem, -, heq⟩ := tickTrig_eq (s := overrunHandshake s) h.sampling h.counters
  rw [heq] at hbody
  split at hbody
  · cases hbody
    exact absurd rfl hactive
  next hrunning =>
  obtain ⟨hwaiting, hwaits, htrig, hpost⟩ | ⟨hwaiting, hfound, hpost⟩ | ⟨hcapture, hcounting, hpost⟩ :=
    phaseStep_counts hbody h.postsampling hactive
  · have htocnt : u.trig.tocnt = s.trig.tocnt - 1 := by rw [htrig]; exact if_neg (h.timed hwaiting)
    refine ⟨fun _ => htocnt ▸ sub_ne_zero.mpr fun hone => hrunning ⟨hone, hwaiting⟩, ?_⟩
    rw [ticksLeft_of_not_capture hwaits, ticksLeft_of_not_capture (s := s) hwaiting, htocnt, hpost]
    exact Nat.add_lt_add_right (toNat_sub_one_lt (h.timed hwaiting)) _
  · refine ⟨absurd hfound, ?_⟩
    rw [ticksLeft_of_capture hfound, ticksLeft_of_not_capture (s := s) hwaiting, hpost]
    exact Nat.lt_add_of_pos_left (BitVec.toNat_pos_of_ne_zero (h.timed hwaiting))
  · refine ⟨absurd hcounting, ?_⟩
    rw [ticksLeft_of_capture hcounting, ticksLeft_of_capture (s := s) hcapture, hpost]
    exact toNat_sub_one_lt (h.postsampling hcapture)

/-- A tick goes on with the run or completes it (R193, R228). -/
theorem TimedRun.tick (h : TimedRun s) : ∃ u, eventStep .tick s = .next u ∧
    ((u.active = none ∧ u.flags.done = true) ∨ (TimedRun u ∧ ticksLeft u < ticksLeft s)) := by
  obtain ⟨u, htick⟩ : ∃ u, eventStep .tick s = .next u := by
    obtain ⟨_, -, hnext⟩ :=
      triggeredTickAdvancesPhase s h.active h.halt h.sampling ⟨h.counters, h.postsampling⟩
    exact ⟨_, hnext⟩
  refine ⟨u, htick, ?_⟩
  have hbody := settle_next ((tickStep_of_not_halted h.active h.halt).symm.trans htick)
  obtain ⟨f, -⟩ := tickStep_frame h.active htick
  obtain ⟨hactive, hdone⟩ | hended := f.ended
  · have hattached : u.active ≠ none := by rw [hactive]; exact h.active ▸ nofun
    have hsampling : SamplingReady u := by
      rw [SamplingReady, runWords, f.tbase_eq, f.cfg, f.conf, f.nchrun, f.selch]
      exact h.sampling
    obtain ⟨hpos, -⟩ := h.sampling
    obtain ⟨hcounters, hpostsampling⟩ := tickTrig_ready hbody hattached hpos h.counters
    obtain ⟨htimed, hless⟩ := h.counts_of_tickTrig hbody hattached
    exact .inr ⟨⟨hactive.trans h.active, f.mpc.trans h.mpc, hdone.trans h.done, f.halt.trans h.halt, hsampling,
      hcounters, hpostsampling, htimed⟩, hless⟩
  · exact .inl hended

end Timeout

theorem runEvents_cons {e : Event} {es : List Event} {s t : State} (h : eventStep e s = .next t) :
    runEvents (e :: es) s = runEvents es t := by
  rw [runEvents, h]

/-- A schedule with as many ticks as the run can still take completes it on the way, by induction on the schedule. -/
theorem TimedRun.completes {es : List Event} {s : State} (h : TimedRun s) (hes : PollsAndTicks es)
    (hcount : ticksLeft s ≤ es.count .tick) :
    ∃ n v, runEvents (es.take n) s = .next v ∧ v.active = none ∧ v.flags.done = true := by
  induction es generalizing s with
  | nil => exact absurd h.ticksLeft_pos hcount.not_gt
  | cons e es ih =>
    have hrest : PollsAndTicks es := fun e' he' => hes e' (List.mem_cons_of_mem _ he')
    have hstep : ∃ u, eventStep e s = .next u ∧
        ((u.active = none ∧ u.flags.done = true) ∨ (TimedRun u ∧ ticksLeft u ≤ es.count .tick)) := by
      obtain rfl | rfl := hes e List.mem_cons_self
      · obtain ⟨hmain, hrun, hleft⟩ := h.main
        exact ⟨_, hmain, .inr ⟨hrun, by simpa [hleft] using hcount⟩⟩
      · obtain ⟨u, htick, hu⟩ := h.tick
        rw [List.count_cons_self] at hcount
        exact ⟨u, htick, hu.imp_right fun ⟨hrun, hless⟩ => ⟨hrun, by omega⟩⟩
    obtain ⟨u, hu, hcompleted | ⟨hrun, hleft⟩⟩ := hstep
    · exact ⟨1, u, by rw [List.take_succ_cons, runEvents_cons hu]; rfl, hcompleted⟩
    · obtain ⟨n, v, hv, hcompleted⟩ := ih hrun hrest hleft
      exact ⟨n + 1, v, by rw [List.take_succ_cons, runEvents_cons hu, hv], hcompleted⟩

/-- Settles O60: at its start a run in phase Prefill can take `TOCNT + POST` ticks. -/
theorem timedTriggeredRunEnds : Obligations.TimedTriggeredRunEnds := by
  intro es s hes hactive hmpc hdone hhalt hsampling hsamples hcur hphase hns htocnt hcount
  have hwaiting : s.run.phase ≠ .capture := by rw [hphase]; exact nofun
  have hrun : TimedRun s := ⟨hactive, hmpc, hdone, hhalt, hsampling,
    captureReady_of_zero hns hsamples hcur, fun hcapture => absurd hcapture hwaiting, fun _ => htocnt⟩
  exact hrun.completes hes (by rwa [ticksLeft_of_not_capture hwaiting])

end Sys2Proof.Machine

/-! SUPPORT. Wave.lean: the statements of spec/45_wave_kernels.md on wave plays. One equation for the tick body (R262,
R267), and along a run the ticks still to come, counted by the repetitions left and the place in the present cycle. -/

namespace Sys2Proof.Machine

/-! ### A tick of a wave play (R267) -/

/-- A completed cycle counted down; the last of a play detaches the kernel (R267). -/
def cycleCounted (s : State) : State :=
  let w := { s with run := { s.run with wrep := s.run.wrep - 1 } }
  if s.run.wrep = 1 then detach w else w

/-- The state after the body of a wave-play tick: the tables played, the cursors moved on, a completed cycle of a finite
play counted (R262, R267). -/
def wavePlayTicked (dual : Bool) (s : State) : State :=
  let v := { played dual s with run := cursorsAdvanced dual s }
  if endsCycle s = true ∧ s.run.winf = false then cycleCounted v else v

section Tick

variable {dual : Bool} {s : State}

theorem countCycle_eq (h : s.run.wrep ≠ 0) : countCycle s = .ok (cycleCounted s) := by
  simp only [countCycle, decrement_total h, cycleCounted, sub_eq_zero]

/-- Playing moves no cursor, so that before and after it the same step is due. -/
theorem advanceWave_played (hw : WaveReady dual s) :
    advanceWave dual (played dual s) = .ok (endsCycle s, { played dual s with run := cursorsAdvanced dual s }) := by
  have hwp : WaveReady dual (played dual s) := by rw [played_eq]; exact hw
  rw [advanceWave_eq hwp]
  cases dual <;> rfl

theorem tickWavePlay_eq (hp : PlayingReady s) (hw : WaveReady dual s) (hcycles : CyclesReady s) :
    tickWavePlay dual s = .ok (wavePlayTicked dual s) := by
  simp only [tickWavePlay, playTables_eq hp hw, advanceWave_played hw, wavePlayTicked, Bool.and_eq_true,
    Bool.not_eq_true']
  by_cases hcount : endsCycle s = true ∧ s.run.winf = false
  · rw [if_pos hcount]
    exact (if_pos hcount).trans (countCycle_eq (hcycles hcount.2))
  · rw [if_neg hcount]
    exact if_neg hcount

theorem kernelBody_wavePlay (dual : Bool) : kernelBody (if dual then .kDwplay else .kWplay) = tickWavePlay dual := by
  cases dual <;> rfl

theorem tickStep_wavePlay (hk : s.active = some (if dual then .kDwplay else .kWplay)) (hhalt : s.flags.halt = false)
    (hp : PlayingReady s) (hw : WaveReady dual s) (hcycles : CyclesReady s) :
    eventStep .tick s = .next (wavePlayTicked dual (overrunHandshake s)) := by
  refine tickStep_of_kernelBody hk hhalt ?_
  rw [kernelBody_wavePlay]
  exact tickWavePlay_eq hp hw hcycles

end Tick

/-- Settles O50: the handshake writes neither cursor nor count, so the body's condition is the statement's. -/
theorem wavePlayTickCountsCycles : Obligations.WavePlayTickCountsCycles :=
  fun _ _ hk hhalt hp hprimary hsecondary hcycles => tickStep_wavePlay hk hhalt hp ⟨hprimary, hsecondary⟩ hcycles

/-! ### A whole wave play (R262, R267) -/

/-- This tick ends the last cycle of a finite play. -/
def endsPlay (s : State) : Bool := endsCycle s && decide (s.run.wrep = 1)

/-- The output events of the `j`-th tick of a play that starts in `s`. -/
def tickOutputs (dual : Bool) (s : State) (j : Nat) : List OutEvent :=
  .dac 1 (wordAt s (j % s.conf.ws.toNat)) ::
    if dual then [.dac 2 (wordAt s (s.conf.ws.toNat + j % s.conf.ws2.toNat))] else []

/-- The ticks of a whole finite play. -/
def playTicks (s : State) : Nat := s.run.wrep.toNat * s.conf.ws.toNat

theorem played_io (dual : Bool) (s : State) :
    (played dual s).io = s.io ++ .dac 1 (wordAt s (primaryWaveIndex s)) ::
      if dual then [.dac 2 (wordAt s (secondaryWaveIndex s))] else [] := by
  cases dual <;> rfl

/-- A tick of a finite play, field by field: every cycle's end counts, and the last one's detaches. -/
theorem wavePlayTicked_of_finite {dual : Bool} {s : State} (hwinf : s.run.winf = false) :
    wavePlayTicked dual s = { s with
      dac := (played dual s).dac
      run := { cursorsAdvanced dual s with wrep := if endsCycle s then s.run.wrep - 1 else s.run.wrep }
      io := (played dual s).io ++ if endsPlay s then [.timerDetach] else []
      active := if endsPlay s then none else s.active
      flags := { s.flags with done := endsPlay s || s.flags.done } } := by
  rw [wavePlayTicked, played_eq, endsPlay]
  cases hcycle : endsCycle s with
  | false => simp [cursorsAdvanced]
  | true =>
    by_cases hlast : s.run.wrep = 1
    · simp [cycleCounted, cursorsAdvanced, hwinf, hlast, detach]
    · simp [cycleCounted, cursorsAdvanced, hwinf, show ¬ s.run.wrep = 1#16 from hlast]

/-- What a finite wave play starts from (R268, R269). -/
structure PlayStart (dual : Bool) (s : State) : Prop where
  active : s.active = some (if dual then .kDwplay else .kWplay)
  done : s.flags.done = false
  halt : s.flags.halt = false
  playing : PlayingReady s
  wpos : s.run.wpos = 0
  winf : s.run.winf = false
  wrep : 0 < s.run.wrep.toNat
  ws : 0 < s.conf.ws.toNat
  second : dual = true → s.run.wpos2 = 0 ∧ 0 < s.conf.ws2.toNat

/-- The cursors after `n` ticks. The repetitions left and the place in the present cycle make up the ticks to come. -/
structure PlayCursors (dual : Bool) (s : State) (n : Nat) (t : State) : Prop where
  wpos : t.run.wpos.toNat = n % s.conf.ws.toNat
  wpos2 : dual = true → t.run.wpos2.toNat = n % s.conf.ws2.toNat
  left : n + t.run.wrep.toNat * s.conf.ws.toNat = playTicks s + t.run.wpos.toNat
  winf : t.run.winf = false

/-- The state after `n` ticks of a wave play that started in `s`. -/
structure PlayProgress (dual : Bool) (s : State) (n : Nat) (t : State) : Prop where
  kept : RunKept s t
  mem : t.mem = s.mem
  env : t.env = s.env
  cursors : PlayCursors dual s n t
  io : t.io = s.io ++ (List.range n).flatMap (tickOutputs dual s) ++ if n = playTicks s then [.timerDetach] else []
  active : t.active = if n = playTicks s then none else s.active
  done : t.flags.done = decide (n = playTicks s)

theorem playProgress_zero {dual : Bool} {s : State} (h : PlayStart dual s) : PlayProgress dual s 0 s := by
  have hticks : 0 ≠ playTicks s := (Nat.mul_pos h.wrep h.ws).ne
  exact {
    kept := ⟨rfl, rfl, rfl, rfl, rfl, rfl, rfl, rfl, rfl, rfl⟩
    mem := rfl
    env := rfl
    cursors := {
      wpos := by rw [h.wpos, Nat.zero_mod]; rfl
      wpos2 := fun hdual => by rw [(h.second hdual).1, Nat.zero_mod]; rfl
      left := by rw [h.wpos, Nat.zero_add]; rfl
      winf := h.winf }
    io := by simp [hticks]
    active := (if_neg hticks).symm
    done := by rw [h.done, decide_eq_false hticks] }

section Play

variable {dual : Bool} {s t : State} {n : Nat}

theorem PlayProgress.playingReady (h : PlayProgress dual s n t) (hs : PlayStart dual s) : PlayingReady t := by
  have hready := hs.playing
  rwa [PlayingReady, h.kept.tbase_eq, h.kept.cfg]

theorem PlayProgress.waveReady (h : PlayProgress dual s n t) (hs : PlayStart dual s) : WaveReady dual t := by
  refine ⟨?_, fun hdual => ?_⟩
  · rw [PrimaryReady, h.cursors.wpos, h.kept.conf]
    exact Nat.mod_lt n hs.ws
  · rw [SecondaryReady, h.cursors.wpos2 hdual, h.kept.conf]
    exact Nat.mod_lt n (hs.second hdual).2

/-- The configuration and the buffer are those of the start, and so is every word. -/
theorem PlayProgress.wordAt_eq (h : PlayProgress dual s n t) (i : Nat) : wordAt t i = wordAt s i := by
  simp only [wordAt, byteAt, h.mem, h.kept.resets]

theorem PlayCursors.wpos_lt (h : PlayCursors dual s n t) (hs : PlayStart dual s) :
    t.run.wpos.toNat < s.conf.ws.toNat := h.wpos ▸ Nat.mod_lt n hs.ws

theorem PlayCursors.wrep_pos (h : PlayCursors dual s n t) (hn : n < playTicks s) : 0 < t.run.wrep.toNat := by
  have hleft := h.left
  refine Nat.pos_of_ne_zero fun hzero => ?_
  rw [hzero] at hleft
  omega

/-- The play ends with the tick that completes `r` cycles (R267). -/
theorem PlayCursors.endsPlay_eq (h : PlayCursors dual s n t) (hs : PlayStart dual s) (hconf : t.conf = s.conf)
    (hn : n < playTicks s) : endsPlay t = decide (n + 1 = playTicks s) := by
  have hleft := h.left
  have hlt := h.wpos_lt hs
  have hone : t.run.wrep = 1 ↔ t.run.wrep.toNat = 1 := BitVec.toNat_inj.symm
  rw [endsPlay, endsCycle, hconf, ← Bool.decide_and, decide_eq_decide, hone]
  refine ⟨fun ⟨hcycle, hlast⟩ => ?_, fun hend => ?_⟩
  · rw [hlast] at hleft
    omega
  · have hpos := h.wrep_pos hn
    have hlast : t.run.wrep.toNat = 1 := by
      refine Nat.le_antisymm (Nat.le_of_mul_le_mul_right ?_ hs.ws) hpos
      omega
    rw [hlast] at hleft
    exact ⟨by omega, hlast⟩

theorem PlayCursors.succ {u : State} (h : PlayCursors dual s n t) (hs : PlayStart dual s) (hconf : t.conf = s.conf)
    (hn : n < playTicks s)
    (hu : u.run = { cursorsAdvanced dual t with wrep := if endsCycle t then t.run.wrep - 1 else t.run.wrep }) :
    PlayCursors dual s (n + 1) u where
  wpos := by
    rw [hu]
    show (cyclicNext t.run.wpos t.conf.ws).toNat = _
    rw [hconf]
    exact cyclicNext_toNat hs.ws h.wpos
  wpos2 hdual := by
    rw [hu]
    show (if dual then cyclicNext t.run.wpos2 t.conf.ws2 else t.run.wpos2).toNat = _
    rw [if_pos hdual, hconf]
    exact cyclicNext_toNat (hs.second hdual).2 (h.wpos2 hdual)
  left := by
    have hleft := h.left
    have hlt := h.wpos_lt hs
    have hpos := h.wrep_pos hn
    rw [hu]
    show n + 1 + (if endsCycle t then t.run.wrep - 1 else t.run.wrep).toNat * s.conf.ws.toNat =
      playTicks s + (cyclicNext t.run.wpos t.conf.ws).toNat
    simp only [endsCycle, decide_eq_true_eq, cyclicNext, hconf]
    split
    next hend =>
      have hcycle : s.conf.ws.toNat ≤ t.run.wrep.toNat * s.conf.ws.toNat := Nat.le_mul_of_pos_left _ hpos
      have hzero : (0 : Word).toNat = 0 := rfl
      rw [toNat_sub_one fun hnone => hpos.ne' (by rw [hnone]; rfl), Nat.sub_one_mul, hzero]
      omega
    next =>
      rw [toNat_add_one_of_lt hlt]
      omega
  winf := by
    rw [hu]
    exact h.winf

/-- One tick of the play. -/
theorem PlayProgress.tick (h : PlayProgress dual s n t) (hs : PlayStart dual s) (hn : n < playTicks s) :
    ∃ u, eventStep .tick t = .next u ∧ PlayProgress dual s (n + 1) u := by
  have hk : t.active = some (if dual then .kDwplay else .kWplay) := by rw [h.active, if_neg hn.ne, hs.active]
  have hcycles : CyclesReady t := fun _ hnone => (h.cursors.wrep_pos hn).ne' (by rw [hnone]; rfl)
  have hends : endsPlay (overrunHandshake t) = decide (n + 1 = playTicks s) :=
    h.cursors.endsPlay_eq hs h.kept.conf hn
  have htick := tickStep_wavePlay hk (h.kept.halt.trans hs.halt) (h.playingReady hs) (h.waveReady hs) hcycles
  rw [wavePlayTicked_of_finite (by exact h.cursors.winf), hends] at htick
  refine ⟨_, htick, {
    kept := h.kept.tick hk htick
    mem := h.mem
    env := h.env
    cursors := h.cursors.succ hs h.kept.conf hn rfl
    io := ?_, active := ?_, done := ?_ }⟩
  · have houtputs : (played dual (overrunHandshake t)).io = t.io ++ tickOutputs dual s n := by
      rw [played_io, tickOutputs, ← h.cursors.wpos, ← h.wordAt_eq]
      cases dual with
      | false => rfl
      | true =>
        rw [← h.cursors.wpos2 rfl, ← h.wordAt_eq, ← h.kept.conf]
        rfl
    simp [houtputs, h.io, hn.ne, List.range_succ]
  · simp [hk, hs.active]
  · simp [h.done, hn.ne]

/-- A poll while the play is in progress touches nothing of it (R196). -/
theorem PlayProgress.poll (h : PlayProgress dual s n t) (hn : n < playTicks s) {x : RunCmd} (hmpc : s.mpc = .poll x) :
    ∃ u, eventStep .main t = .next u ∧ PlayProgress dual s n u :=
  ⟨_, mainStep_of_in_progress (h.kept.mpc.trans hmpc) (h.done.trans (decide_eq_false hn.ne)),
    { h with kept := { h.kept with }, cursors := { h.cursors with } }⟩

end Play

/-- Progress that every tick before the last moves on by one and every poll keeps: polls and ticks, ending with the
last tick if they reach it, take it as far as there are ticks, however the polls fall. -/
theorem progress_of_runEvents {P : Nat → State → Prop} {s : State} {total : Nat} (hzero : P 0 s)
    (hpoll : ∀ {n t}, P n t → n < total → ∃ u, eventStep .main t = .next u ∧ P n u)
    (htick : ∀ {n t}, P n t → n < total → ∃ u, eventStep .tick t = .next u ∧ P (n + 1) u)
    (es : List Event) (hes : PollsAndTicks es) (hle : es.count .tick ≤ total)
    (hlast : es.count .tick = total → es.getLast? = some .tick) :
    ∃ t, runEvents es s = .next t ∧ P (es.count .tick) t := by
  induction es using List.reverseRecOn with
  | nil => exact ⟨s, rfl, hzero⟩
  | append_singleton es e ih =>
    have hbefore : es.count .tick < total := by
      obtain rfl | rfl := hes e (by simp)
      · have hnotLast : (es ++ [Event.main]).count .tick ≠ total := fun hfull => by simpa using hlast hfull
        simpa using lt_of_le_of_ne hle hnotLast
      · simpa using hle
    obtain ⟨t, ht, hprogress⟩ := ih hes.of_append hbefore.le fun hfull => absurd hfull hbefore.ne
    have hstep : ∃ u, eventStep e t = .next u ∧ P ((es ++ [e]).count .tick) u := by
      obtain rfl | rfl := hes e (by simp)
      · simpa using hpoll hprogress hbefore
      · simpa using htick hprogress hbefore
    obtain ⟨u, hu, hprogress'⟩ := hstep
    exact ⟨u, by rw [runEvents_append ht, runEvents_cons hu]; rfl, hprogress'⟩

/-- Settles O56: the play's course at the number of ticks in the schedule. -/
theorem wavePlayRunsWholeCycles : Obligations.WavePlayRunsWholeCycles := by
  intro es s dual x hes hk hmpc hdone hhalt hplaying hwpos hwinf hwrep hws hsecond hle hlast
  have hs : PlayStart dual s := ⟨hk, hdone, hhalt, hplaying, hwpos, hwinf, zero_lt_size hwrep, zero_lt_size hws,
    fun hdual => (hsecond hdual).imp_right zero_lt_size⟩
  obtain ⟨t, ht, h⟩ := progress_of_runEvents (playProgress_zero hs) (fun h hn => h.poll hn hmpc)
    (fun h hn => h.tick hs hn) es hes hle hlast
  refine ⟨t, ht, ?_, by rw [h.done, decide_eq_true_eq]; rfl, h.mem, h.env, h.io⟩
  rw [h.active, hk, ite_eq_left_iff]
  simp [playTicks]

end Sys2Proof.Machine

/-! SUPPORT. QueryCmds.lean: the statements of spec/46_query_io_commands.md. What each query and direct I/O command does
after a passed receive-check (R290 to R298): a request to the platform is recorded and answered beside the link (R288),
so the reply is that of the state the request leaves. -/

namespace Sys2Proof.Machine

/-! ### How channels and lines are numbered (R294, R295, R297, R298) -/

theorem numbered_iff {b n : Byte} : numbered b n = true ↔ 1 ≤ b.toNat ∧ b.toNat ≤ n.toNat := by
  simp [numbered]

theorem not_numbered_iff {b n : Byte} : ¬ numbered b n = true ↔ b = 0 ∨ n < b := by
  rw [numbered_iff]
  bv_omega

/-! ### The capability reply (R292) -/

/-- The bytes of the capability reply at offsets 0 to 21, before the platform's reset-state flag (R292). -/
def capabilityBytes (cfg : Config) : List Byte :=
  [cfg.ndac, cfg.nadc] ++ wordBytes cfg.bsize ++ decBytes cfg.pmax ++ decBytes cfg.pmin ++ decBytes cfg.platform.vdd ++
    decBytes cfg.platform.fmax ++ decBytes cfg.platform.vref ++
    [cfg.platform.dacBits, cfg.platform.adcBits, cfg.platform.ndio]

theorem putCapabilities_eq (s : State) : putCapabilities s = putBytes (capabilityBytes s.cfg) s := rfl

/-- Asking the platform for its flag does not touch the link, so bytes may as well be sent after it. -/
theorem resetFlag_putBytes (bs : List Byte) (s : State) :
    resetFlag (putBytes bs s) = ((resetFlag s).1, putBytes bs (resetFlag s).2) := by
  rw [putBytes_eq, putBytes_eq]
  rfl

section Commands

variable {s : State} {chk : Byte}

/-! ### Queries (R290 to R293) -/

/-- A query that sends bytes of the profile, after a passed receive-check (R290, R291, R293). -/
theorem query_of_accepts (h : Accepts chk s) (payload : State → List Byte) :
    rxCheck chk s (fun s => .next (putChecksum (putBytes (payload s) s))) = .next (reply (payload s) s) := by
  rw [rxCheck_pass h.1, putChecksum_putBytes h.2]

theorem execCaps_of_accepts (h : Accepts chk s) :
    exec (.caps chk) s = .next (reply (capabilityBytes s.cfg ++ [(resetFlag s).1]) (resetFlag s).2) := by
  rw [exec, execCaps, rxCheck_pass h.1, putCapabilities_eq, resetFlag_putBytes]
  dsimp only
  rw [putByte_eq_putBytes, putBytes_append, putChecksum_putBytes (by exact h.2)]

/-! ### Analog channels (R294, R295) -/

theorem execAnard_of_accepts (h : Accepts chk s) (channel : Byte) :
    exec (.anard channel chk) s =
      if numbered channel s.cfg.nadc = true then
        .next (reply (wordBytes (analogRead channel s.conf.navg s).1) (analogRead channel s.conf.navg s).2)
      else .next (nackReply s) := by
  rw [exec, execAnard, rxCheck_pass h.1, raiseNack_eq h.2]
  dsimp only
  rw [putU16_eq_putBytes, putChecksum_putBytes (by exact h.2)]

theorem execAnawr_of_accepts (h : Accepts chk s) (channel : Byte) (v : Word) :
    exec (.anawr channel v chk) s =
      if numbered channel s.cfg.ndac = true then
        .next { ackReply s with dac := s.dac.set (channel.toNat - 1) v, io := s.io ++ [.dac channel.toNat v] }
      else .next (nackReply s) := by
  rw [exec, execAnawr, rxCheck_pass h.1, raiseNack_eq h.2]
  refine ite_congr rfl (fun hchannel => ?_) fun _ => rfl
  obtain ⟨hlow, hhigh⟩ := numbered_iff.mp hchannel
  rw [dacWrite_total v hlow hhigh]
  dsimp only
  rw [replyAck_eq (by exact h.2)]
  rfl

/-! ### Digital lines (R296 to R298) -/

theorem execDiomode_of_accepts (h : Accepts chk s) (line mode : Byte) :
    exec (.diomode line mode chk) s = .next
      { (if (digitalMode line mode s).1 then ackReply s else nackReply s) with
        io := (digitalMode line mode s).2.io
        env := (digitalMode line mode s).2.env } := by
  rw [exec, execDiomode, rxCheck_pass h.1]
  dsimp only
  rw [replyAck_eq (by exact h.2), raiseNack_eq (by exact h.2)]
  cases (digitalMode line mode s).1 with
  | true => rfl
  | false => rfl

theorem execDiowr_of_accepts (h : Accepts chk s) (line v : Byte) :
    exec (.diowr line v chk) s =
      if numbered line s.cfg.platform.ndio = true then .next (ackReply (emit (.digitalWrite line v) s))
      else .next (nackReply s) := by
  rw [exec, execDiowr, rxCheck_pass h.1, raiseNack_eq h.2, replyAck_eq (by exact h.2)]
  rfl

theorem execDiord_of_accepts (h : Accepts chk s) (line : Byte) :
    exec (.diord line chk) s =
      if numbered line s.cfg.platform.ndio = true then
        .next (reply [s.cfg.ack, (digitalRead line s).1] (digitalRead line s).2)
      else .next (nackReply s) := by
  rw [exec, execDiord, rxCheck_pass h.1, raiseNack_eq h.2, ← putChecksum_putBytes (by exact h.2)]
  rfl

end Commands

/-- Settles O25: three queries send bytes of the profile, and the platform's flag ends the capability reply. -/
theorem queriesReply : Obligations.QueriesReply := by
  intro s chk haccepts
  exact ⟨query_of_accepts haccepts fun s => s.cfg.platform.fwString,
    query_of_accepts haccepts fun s => s.cfg.platform.pinList,
    query_of_accepts haccepts fun s => magicBytes s.cfg,
    execCaps_of_accepts haccepts⟩

/-- Settles O26: the two clauses are the two branches of ANARD. -/
theorem analogReadReplies : Obligations.AnalogReadReplies := by
  intro s chk channel haccepts
  refine ⟨fun hlow hhigh => ?_, fun hout => ?_⟩ <;> rw [execAnard_of_accepts haccepts]
  · exact if_pos (numbered_iff.mpr ⟨hlow, hhigh⟩)
  · exact if_neg (not_numbered_iff.mpr hout)

/-- Settles O27: the two clauses are the two branches of ANAWR. -/
theorem analogWriteSetsOutput : Obligations.AnalogWriteSetsOutput := by
  intro s chk channel v haccepts
  refine ⟨fun hlow hhigh => ?_, fun hout => ?_⟩ <;> rw [execAnawr_of_accepts haccepts]
  · exact if_pos (numbered_iff.mpr ⟨hlow, hhigh⟩)
  · exact if_neg (not_numbered_iff.mpr hout)

/-- Settles O28: DIOMODE replies what the platform answers, DIOWR and DIORD branch on the number of the line. -/
theorem digitalLinesReply : Obligations.DigitalLinesReply := by
  intro s chk line v haccepts
  refine ⟨execDiomode_of_accepts haccepts line v, fun hlow hhigh => ?_, fun hout => ?_⟩
  · rw [execDiowr_of_accepts haccepts, execDiord_of_accepts haccepts]
    have hline := numbered_iff.mpr ⟨hlow, hhigh⟩
    exact ⟨if_pos hline, if_pos hline⟩
  · rw [execDiowr_of_accepts haccepts, execDiord_of_accepts haccepts]
    have hline := not_numbered_iff.mpr hout
    exact ⟨if_neg hline, if_neg hline⟩

end Sys2Proof.Machine

/-! SUPPORT. Exceptions.lean: the statement of spec/60_exceptions.md on the halt line. Edges are not counted: while
`HALT` is set, a further one changes nothing (R321). -/

namespace Sys2Proof.Machine

/-! ### The halt step (R321) -/

theorem eventStep_halt (s : State) : eventStep .halt s = .next (haltStep s) := rfl

/-- While `HALT` is set, a halt step is the identity: `HALT` is the one thing it writes. -/
theorem haltStep_of_halt {s : State} (h : s.flags.halt = true) : haltStep s = s := by
  have hflags : { s.flags with halt := true } = s.flags := by rw [← h]
  rw [haltStep, hflags]

/-- Settles O19: a halt step leaves `HALT` set, so a second one changes nothing. -/
theorem haltStepSetsHaltOnly : Obligations.HaltStepSetsHaltOnly := by
  intro s
  have hset : (haltStep s).flags.halt = true := by rw [haltStep_flags]
  exact ⟨eventStep_halt s, haltStep_of_halt hset⟩

end Sys2Proof.Machine
